-- ==== Sys2Proof/Word.lean ====
section
/-! DEFINITION. The two machine words of FSYNC: a byte of the wire and of the buffers (R8), and a 32-bit host register word (R7, R21). -/

namespace Sys2Proof

/-- One byte: "Bytes are 8-bit unsigned values 0..255" (R8). -/
abbrev Byte := BitVec 8

/-- One host register word (R7: host register width 32 bits). -/
abbrev Word := BitVec 32

end Sys2Proof
end

