-- ==== Sys2Proof/Config.lean ====
section
/-! DEFINITION. What an implementation fixes and the spec leaves OPEN: only P_READ_TIMEOUT (R7, R250, D27, P4). Every other parameter of R7 has one value, which stands where it is used. -/

namespace Sys2Proof

/-- P_READ_TIMEOUT: the read timeout of the channel agent RXCH (R7, R250).
It has no body, so nothing can be proved of its value.
No rule of FSYNC reads it: it reaches the block only as the event `Timeout` (log entry 4). -/
opaque Config.readTimeout : Nat

end Sys2Proof
end

