-- ==== Sys2Proof/Syntax.lean ====
section
/-! DEFINITION. The instructions of FSYNC: one constructor per row of spec/opcode_table.json, over its three formats (the CMD32 command word, the host bus request BUSREQ22, and the reply class of a decoded frame). -/

namespace Sys2Proof

/-- One constructor per row of the opcode table. -/
inductive Instr where
  /-- ENCODE: command word 0x00000001 (R91, R127). -/
  | encode
  /-- RECV: command word 0x00000002 (R91, R170). -/
  | recv
  /-- SEND: command word 0x00000003 (R91, R180). -/
  | send
  /-- CMD_RESERVED: every other command word `w` (R93), whose OP is 0 or 4 to 15 or whose bits [31:4] are not 0. -/
  | cmdReserved (w : Word)
  /-- RD: read the register at `addr` (R211). -/
  | rd (addr : BitVec 20)
  /-- WR: write `data` to the register at `addr` (R212); at address 0 it is a command (R213). -/
  | wr (addr : BitVec 20) (data : Word)
  /-- RDB: read the buffer byte at `addr` (R214). -/
  | rdb (addr : BitVec 20)
  /-- WRB: write the buffer byte at `addr` (R214). -/
  | wrb (addr : BitVec 20) (data : Byte)
  /-- NACK_MATCH: a decoded reply that rejects the command in flight (R100, R188). -/
  | nackMatch
  /-- ACK_MATCH: a decoded reply that accepts the command in flight (R100, R189). -/
  | ackMatch
  /-- UNRELATED: any other decoded reply (R100, R190): its message id, and whether its payload fails to name the command in flight. -/
  | unrelated (id : Byte) (mismatch : Bool)
deriving DecidableEq, Repr

end Sys2Proof
end

