-- ==== Sys2Proof/WellFormed.lean ====
section
/-! DEFINITION. Which terms of `Instr` stand for an encoding: a reserved command is not one of the three legal words (R91, R93), and an unrelated reply is neither a matching NACK nor a matching ACK (R100). -/

namespace Sys2Proof

/-- The term is the reading of some encoding.
Bus requests carry every 20-bit address: an address with no register or buffer behind it is a well-formed access that the machine refuses (R62). -/
def Instr.wellFormed : Instr → Bool
  | .encode => true
  | .recv => true
  | .send => true
  | .cmdReserved w => w != 1 && w != 2 && w != 3
  | .rd _ => true
  | .wr _ _ => true
  | .rdb _ => true
  | .wrb _ _ => true
  | .nackMatch => true
  | .ackMatch => true
  | .unrelated id mismatch => mismatch || (id != 0x84 && id != 0x83)

end Sys2Proof
end

