-- ==== Sys2Proof/Decode.lean ====
section
/-! DEFINITION. Reading the three encoded objects that FSYNC dispatches on (R90, R95, R100), by name where a pattern is no encoding, and the encoder written from the same tables. -/

namespace Sys2Proof

/-- One host access as the HOST agent spells it: a command by its command word (R90, R104), or any access by its 22-bit request word with the data beside it (R95). -/
inductive HostReq where
  | cmd (w : Word)
  | bus (req : BitVec 22) (data : Word)
deriving DecidableEq, Repr

/-- What the reply classes of R100 are told apart by: RX_ID, and whether the clause `RX_LENF ≥ 2 and RXBUF[0] = TX_ID` fails. -/
structure ReplyKey where
  id : Byte
  mismatch : Bool
deriving DecidableEq, Repr

/-- An encoded object of one of the opcode table's formats. -/
inductive Raw where
  | host (r : HostReq)
  | reply (k : ReplyKey)
deriving DecidableEq, Repr

/-- NACK_TYPE (R102). -/
def nackType : Byte := 0x84

/-- ACK_TYPE (R102). -/
def ackType : Byte := 0x83

/-- The command word: a value selects an operation only when it is exactly 1, 2 or 3 (R91); every other value is reserved (R93). -/
def decodeCmd (w : Word) : Instr :=
  if w = 1 then .encode else if w = 2 then .recv else if w = 3 then .send else .cmdReserved w

/-- The bus request word: W is bit 21, SZ bit 20, ADDR bits [19:0] (R95); a byte write takes the low byte of the data (R210). -/
def decodeBus (req : BitVec 22) (data : Word) : Instr :=
  let addr : BitVec 20 := req.extractLsb' 0 20
  match req.getLsbD 21, req.getLsbD 20 with
  | false, true => .rd addr
  | true, true => .wr addr data
  | false, false => .rdb addr
  | true, false => .wrb addr (data.setWidth 8)

/-- A host access in either spelling. -/
def decodeHost : HostReq → Instr
  | .cmd w => decodeCmd w
  | .bus req data => decodeBus req data

/-- The reply class of a decoded frame: NACK first, ACK second, everything else unrelated (R100, R187). -/
def decodeReply (k : ReplyKey) : Instr :=
  if k.id = nackType ∧ k.mismatch = false then .nackMatch
  else if k.id = ackType ∧ k.mismatch = false then .ackMatch
  else .unrelated k.id k.mismatch

/-- The decoder of all three formats. -/
def decode : Raw → Instr
  | .host r => decodeHost r
  | .reply k => decodeReply k

/-- The formats of spec/opcode_table.json. -/
inductive Format where
  | cmd32
  | busReq22
  | reply
deriving DecidableEq, Repr

/-- Why a number is no encoding of its format: it has a one above the format's highest bit, or its bytes are too few or too many. -/
inductive DecodeError where
  | tooWide (f : Format)
  | badLength (f : Format)
deriving DecidableEq, Repr

/-- The bits a format has: the command word 32 (R90), the request word 22 (R95), the reply's RX_ID 8 and above it the model's own mismatch bit (log entry 8). -/
def formatBits : Format → Nat
  | .cmd32 => 32
  | .busReq22 => 22
  | .reply => 9

/-- The object of format `f` whose bits are `w`; the data beside a request word has no bits of it, so it is 0. -/
def rawOfWord (f : Format) (w : Nat) : Except DecodeError Raw :=
  if w < 2 ^ formatBits f then
    match f with
    | .cmd32 => .ok (.host (.cmd (BitVec.ofNat 32 w)))
    | .busReq22 => .ok (.host (.bus (BitVec.ofNat 22 w) 0))
    | .reply => .ok (.reply ⟨BitVec.ofNat 8 w, w.testBit 8⟩)
  else .error (.tooWide f)

/-- Decoding the bits of a word of format `f`: total, and rejecting by name. -/
def decodeWord (f : Format) (w : Nat) : Except DecodeError Instr :=
  match rawOfWord f w with
  | .ok r => .ok (decode r)
  | .error e => .error e

/-- The number whose bytes, least significant first, are `bs`. -/
def natOfBytes : List Byte → Nat
  | [] => 0
  | b :: bs => b.toNat + 256 * natOfBytes bs

/-- Decoding from bytes, least significant first, as the opcode table numbers bits; exactly the bytes the format needs. -/
def decodeBytes (f : Format) (bs : List Byte) : Except DecodeError Instr :=
  if bs.length = (formatBits f + 7) / 8 then decodeWord f (natOfBytes bs) else .error (.badLength f)

/-- The request word with W and SZ as its two upper bits, above the address (R95). -/
def busWord (wsz : BitVec 2) (addr : BitVec 20) : BitVec 22 := wsz ++ addr

/-- The encoding of an instruction (R90, R95, R100): the inverse of `decode` on well-formed instructions. -/
def encode : Instr → Raw
  | .encode => .host (.cmd 0x00000001)
  | .recv => .host (.cmd 0x00000002)
  | .send => .host (.cmd 0x00000003)
  | .cmdReserved w => .host (.cmd w)
  | .rd addr => .host (.bus (busWord 1#2 addr) 0)
  | .wr addr data => .host (.bus (busWord 3#2 addr) data)
  | .rdb addr => .host (.bus (busWord 0#2 addr) 0)
  | .wrb addr data => .host (.bus (busWord 2#2 addr) (data.setWidth 32))
  | .nackMatch => .reply ⟨nackType, false⟩
  | .ackMatch => .reply ⟨ackType, false⟩
  | .unrelated id mismatch => .reply ⟨id, mismatch⟩

/-- Which format a table word of `nbits` bits has (log entry 9): 32 bits a command word, 24 a request word, and of 8 bits a command word where the row CMD_RESERVED matches (bits [3:0] all 0) and the reply id otherwise; a word of no bits is the catch-all row UNRELATED. -/
def tableFormat (nbits w : Nat) : Option Format :=
  if nbits = 32 then some .cmd32
  else if nbits = 24 then some .busReq22
  else if nbits = 8 then (if w % 16 = 0 then some .cmd32 else some .reply)
  else if nbits = 0 then some .reply
  else none

/-- The encoded object that a table word stands for. -/
def tableRaw (nbits w : Nat) : Option Raw :=
  match tableFormat nbits w with
  | none => none
  | some f =>
    if w < 2 ^ nbits then
      match rawOfWord f w with
      | .ok r => some r
      | .error _ => none
    else none

/-- The instruction this decoder reads from a table word (the host's question about each row). -/
def decodeTableWord (nbits w : Nat) : Option Instr :=
  match tableRaw nbits w with
  | some r => some (decode r)
  | none => none

end Sys2Proof
end

