-- ==== Sys2Proof/Machine/State.lean ====
section
/-! DEFINITION. The state of FSYNC: its registers, internal flags and buffers (10_state.md), beside the plain data that stands for the other three agents of R6; what stops a run; and the state right after reset (R53, R260, R262). -/

namespace Sys2Proof.Machine

/-- STATUS.SESS (R26). The values 7 to 15 are never held, so they are no constructors. -/
inductive Sess where
  | idle | sending | awaitingReply | acked | nacked | exhausted | failed
deriving DecidableEq, Repr

/-- STATUS.DEC, the decoder phase (R27). The values 9 to 15 are never held. -/
inductive Phase where
  | idle | sync | lenHi | lenLo | msgId | payload | checksum | trailer0 | trailer1
deriving DecidableEq, Repr

/-- STATUS.OP: the opcode of the command most recently started, or none since reset (R25). -/
inductive OpCode where
  | none | encode | recv | send
deriving DecidableEq, Repr

/-- RESULT.CODE and LAST_DEC.CODE (R29, R232). The values 9 to 15 are never held. -/
inductive Code where
  | none | ok | syncTimeout | channelError | invalidLength | checksumMismatch | invalidTrailer
  | commandRejected | ackTimeout
deriving DecidableEq, Repr

/-- The layout that RESULT and LAST_DEC share (R28, R31): the outcome code, and the context of a channel error (R30). -/
structure ResultReg where
  code : Code
  chFatal : Bool
  chPhase : BitVec 4
deriving DecidableEq, Repr

/-- The value NONE: all bits 0. -/
def ResultReg.zero : ResultReg := ⟨.none, false, 0⟩

/-- An answer of RXCH to one byte request (R68). -/
inductive RxEvent where
  | byte (b : Byte)
  | timeout
  | fatal
deriving DecidableEq, Repr

/-- An answer of TXCH to one frame write (R70). -/
inductive TxAnswer where
  | writeOk
  | writeErr
deriving DecidableEq, Repr

/-- Who takes the next step (R6, R9): the host, one of the two channel agents, or the reset input (R260). -/
inductive Agent where
  | host | rxch | txch | reset
deriving DecidableEq, Repr

/-- The three byte buffers (R48, R49, R51). -/
inductive Buf where
  | txbuf | rxbuf | framebuf
deriving DecidableEq, Repr

/-- The 18 registers of the host's map (R21). -/
inductive Reg where
  | cmd | status | result | lastDec | syncMax | ackMax | txId | txLen | rxId | rxLenf | rxCount
  | check | trailer | syncCnt | syncDisc | syncPrev | attempts | frameLen
deriving DecidableEq, Repr

/-- The buffer bytes, by host byte address (R61), each entry a byte with its written mark set (R50).
An unlisted address reads as no value: its mark is clear. -/
abbrev Memory := List Host.Cell

/-- The canonical form: addresses strictly rising.
No entry can equal what an unlisted address reads as, since that is no value. -/
abbrev Memory.wf (m : Memory) : Prop := m.Pairwise (fun x y => x.1 < y.1)

/-- The state of the machine. -/
structure State where
  /-- SYNC_MAX (R32). -/
  syncMax : BitVec 32
  /-- ACK_MAX (R33). -/
  ackMax : BitVec 32
  /-- TX_ID[7:0] (R34); bits [31:8] read 0. -/
  txId : BitVec 8
  /-- TX_LEN[15:0] (R35); bits [31:16] read 0. -/
  txLen : BitVec 16
  /-- STATUS.BUSY (R24). -/
  busy : Bool
  /-- STATUS.OP (R25). -/
  op : OpCode
  /-- STATUS.SESS (R26). -/
  sess : Sess
  /-- STATUS.DEC (R27). -/
  dec : Phase
  /-- RESULT (R28). -/
  result : ResultReg
  /-- LAST_DEC (R31). -/
  lastDec : ResultReg
  /-- RX_ID[7:0] (R36). -/
  rxId : BitVec 8
  /-- RX_LENF[15:0] (R37). -/
  rxLenf : BitVec 16
  /-- RX_COUNT[15:0] (R38). -/
  rxCount : BitVec 16
  /-- CHECK.CK_CALC (R39). -/
  ckCalc : BitVec 8
  /-- CHECK.CK_RCVD (R39). -/
  ckRcvd : BitVec 8
  /-- TRAILER.T0 (R40). -/
  trl0 : BitVec 8
  /-- TRAILER.T1 (R40). -/
  trl1 : BitVec 8
  /-- SYNC_CNT (R41). -/
  syncCnt : BitVec 32
  /-- SYNC_DISC (R42). -/
  syncDisc : BitVec 32
  /-- SYNC_PREV.PREV (R43). -/
  prev : BitVec 8
  /-- SYNC_PREV.PREV_VALID (R43). -/
  prevValid : Bool
  /-- ATTEMPTS (R44). -/
  attempts : BitVec 32
  /-- FRAME_LEN[16:0] (R45). -/
  frameLen : BitVec 17
  /-- S.rxpend: a byte request to RXCH is outstanding (R46, R68). -/
  rxpend : Bool
  /-- S.txpend: a frame is presented to TXCH (R46, R70). -/
  txpend : Bool
  /-- S.refused: a refusal has happened in this run (R10, R46). -/
  refused : Bool
  /-- S.faulted: the fault has happened in this run (R10, R46). -/
  faulted : Bool
  /-- TXBUF, RXBUF and FRAMEBUF with their written marks (R48 to R51). -/
  mem : Memory
  /-- The model's own: the agents in the order in which they take their next steps (R9, R75; log entry 1). -/
  sched : List Agent
  /-- The model's own: the accesses that the HOST agent issues, first to come first (log entry 1). -/
  hostQ : List HostReq
  /-- The model's own: the answers that RXCH holds, first to come first (R71, R72; log entry 1). -/
  rxQ : List RxEvent
  /-- The model's own: the answers that TXCH gives, first to come first (R70; log entry 1). -/
  txQ : List TxAnswer
  /-- The model's own: the frames that TXCH has taken with WriteOk, oldest first (R70; log entry 3). -/
  txSent : List (List Byte)
  /-- The model's own: the value the host last read, `v` of R103 (log entry 2). -/
  hostData : BitVec 32
deriving DecidableEq, Repr

/-- Why the machine stops with a fault. -/
inductive Fault where
  /-- Fault(UNINIT_READ), the only fault (R50, R242): RDB of a byte nobody wrote since reset, or ENCODE and SEND over such a payload byte.
  `left` is the state it leaves, with S.faulted set.
  Safe: nothing can be proved past it, which is what the spec asks for (R10). -/
  | uninitRead (left : State)
deriving DecidableEq, Repr

/-- Why an access has no meaning: the complete list of R219.
`left` is the state a refusal leaves: S.refused is set and no register or buffer differs.
All of them are safe: the spec itself refuses these accesses so that nothing is proved past them (R10). -/
inductive Refusal where
  /-- No meaning yet: raised by `exec` for an instruction that the model does not have; no arm raises it. Safe. -/
  | notModelled (mnemonic : String)
  /-- BAD_ADDRESS: RD, WR, RDB and WRB at a reserved address (R62, R210). Safe. -/
  | badAddress (left : State)
  /-- BAD_WIDTH: RD and WR in a buffer range or off a word boundary, RDB and WRB in the register window (R64, R65, R210). Safe. -/
  | badWidth (left : State)
  /-- READ_ONLY: WR to a read-only register, WRB to RXBUF or FRAMEBUF (R212, R214). Safe. -/
  | readOnly (left : State)
  /-- BUSY: a command, WR to a writable register or WRB to TXBUF while an operation runs (R212, R214). Safe. -/
  | busy (left : State)
  /-- RESERVED_OPCODE: a command word whose OP is 0 or 4 to 15 (R93, R213). Safe. -/
  | reservedOpcode (left : State)
  /-- RESERVED_BITS: a one in a reserved bit of CMD, TX_ID or TX_LEN (R213, R215). Safe. -/
  | reservedBits (left : State)
  /-- TX_LEN_OVERFLOW: ENCODE or SEND with TX_LEN = 65535 (R125, R213). Safe. -/
  | txLenOverflow (left : State)
deriving DecidableEq, Repr

/-- The machine right after reset (R53, R260, R262): every register 0, every written mark clear, no request outstanding, and a run that nothing has marked yet.
The model's own fields start with nothing to do and nothing done (log entry 5). -/
def State.reset : State where
  syncMax := 0
  ackMax := 0
  txId := 0
  txLen := 0
  busy := false
  op := .none
  sess := .idle
  dec := .idle
  result := .zero
  lastDec := .zero
  rxId := 0
  rxLenf := 0
  rxCount := 0
  ckCalc := 0
  ckRcvd := 0
  trl0 := 0
  trl1 := 0
  syncCnt := 0
  syncDisc := 0
  prev := 0
  prevValid := false
  attempts := 0
  frameLen := 0
  rxpend := false
  txpend := false
  refused := false
  faulted := false
  mem := []
  sched := []
  hostQ := []
  rxQ := []
  txQ := []
  txSent := []
  hostData := 0

end Sys2Proof.Machine
end

