-- ==== Sys2Proof/Machine/Operands.lean ====
section
/-! DEFINITION. The operand forms of FSYNC: what a host address names (R61, R210), the offsets of the registers (R21), the fields of written words (R22, R215), and the numbers of the named fields (R26, R27, R29). -/

namespace Sys2Proof.Machine

/-- What a host address names (R210). -/
inductive Region where
  | reg
  | buf (b : Buf)
  | reserved
deriving DecidableEq, Repr

/-- The host address map (R61, R210); an address at or above 2^20 is reserved (R62). -/
def region (a : Nat) : Region :=
  if a ≤ 0x00047 then .reg
  else if 0x10000 ≤ a ∧ a ≤ 0x1FFFD then .buf .txbuf
  else if 0x20000 ≤ a ∧ a ≤ 0x2FFFD then .buf .rxbuf
  else if 0x40000 ≤ a ∧ a ≤ 0x50005 then .buf .framebuf
  else .reserved

/-- The host address of a buffer's byte 0 (R61). -/
def bufBase : Buf → Nat
  | .txbuf => 0x10000
  | .rxbuf => 0x20000
  | .framebuf => 0x40000

/-- How many bytes a buffer has (R7, R61). -/
def bufSize : Buf → Nat
  | .txbuf => 65534
  | .rxbuf => 65534
  | .framebuf => 65542

/-- The register at a byte offset; an offset that is no multiple of 4, or is above 0x44, has none (R21, R55, R64). -/
def regAt (off : Nat) : Option Reg :=
  match off with
  | 0x00 => some .cmd
  | 0x04 => some .status
  | 0x08 => some .result
  | 0x0C => some .lastDec
  | 0x10 => some .syncMax
  | 0x14 => some .ackMax
  | 0x18 => some .txId
  | 0x1C => some .txLen
  | 0x20 => some .rxId
  | 0x24 => some .rxLenf
  | 0x28 => some .rxCount
  | 0x2C => some .check
  | 0x30 => some .trailer
  | 0x34 => some .syncCnt
  | 0x38 => some .syncDisc
  | 0x3C => some .syncPrev
  | 0x40 => some .attempts
  | 0x44 => some .frameLen
  | _ => none

/-- The byte offset of a register (R21). -/
def regOffset : Reg → BitVec 20
  | .cmd => 0x00
  | .status => 0x04
  | .result => 0x08
  | .lastDec => 0x0C
  | .syncMax => 0x10
  | .ackMax => 0x14
  | .txId => 0x18
  | .txLen => 0x1C
  | .rxId => 0x20
  | .rxLenf => 0x24
  | .rxCount => 0x28
  | .check => 0x2C
  | .trailer => 0x30
  | .syncCnt => 0x34
  | .syncDisc => 0x38
  | .syncPrev => 0x3C
  | .attempts => 0x40
  | .frameLen => 0x44

/-- CMD.OP, bits [3:0] of a command word (R22, R90). -/
def opField (d : Word) : BitVec 4 := d.extractLsb' 0 4

/-- Bits [31:4] of a command word, reserved (R22, R90). -/
def cmdRsvd (d : Word) : BitVec 28 := d.extractLsb' 4 28

/-- Bits [31:8] of a TX_ID word, reserved (R34, R215). -/
def txIdRsvd (d : Word) : BitVec 24 := d.extractLsb' 8 24

/-- Bits [31:16] of a TX_LEN word, reserved (R35, R215). -/
def txLenRsvd (d : Word) : BitVec 16 := d.extractLsb' 16 16

/-- The most significant byte of a 16-bit length (R66). -/
def hiByte (v : BitVec 16) : Byte := v.extractLsb' 8 8

/-- The least significant byte of a 16-bit length (R66). -/
def loByte (v : BitVec 16) : Byte := v.extractLsb' 0 8

/-- The 16-bit value whose bytes are given, most significant first (R8, R98). -/
def ofBytes16 (hi lo : Byte) : BitVec 16 := hi ++ lo

/-- The number of a session state (R26). -/
def sessNum : Sess → BitVec 4
  | .idle => 0
  | .sending => 1
  | .awaitingReply => 2
  | .acked => 3
  | .nacked => 4
  | .exhausted => 5
  | .failed => 6

/-- The number of a decoder phase (R27). -/
def phaseNum : Phase → BitVec 4
  | .idle => 0
  | .sync => 1
  | .lenHi => 2
  | .lenLo => 3
  | .msgId => 4
  | .payload => 5
  | .checksum => 6
  | .trailer0 => 7
  | .trailer1 => 8

/-- The number of an opcode in STATUS.OP (R23, R25). -/
def opNum : OpCode → BitVec 2
  | .none => 0
  | .encode => 1
  | .recv => 2
  | .send => 3

/-- The number of an outcome code (R29). -/
def codeNum : Code → BitVec 4
  | .none => 0
  | .ok => 1
  | .syncTimeout => 2
  | .channelError => 3
  | .invalidLength => 4
  | .checksumMismatch => 5
  | .invalidTrailer => 6
  | .commandRejected => 7
  | .ackTimeout => 8

end Sys2Proof.Machine
end

