-- ==== Sys2Proof/Machine/Flags.lean ====
section
/-! DEFINITION. The status fields as register words, and the conditions that the block's rules test: the images of STATUS, RESULT, CHECK, TRAILER and SYNC_PREV (R23, R28, R39, R40, R43), the marker match (R144), the sync budget (R143) and the reply condition (R187). FSYNC has no condition codes (R54). -/

namespace Sys2Proof.Machine

/-- STATUS: DEC in [11:8], SESS in [7:4], OP in [3:2], BUSY in [0], every other bit 0 (R23, R211). -/
def statusWord (s : State) : Word :=
  (phaseNum s.dec ++ sessNum s.sess ++ opNum s.op ++ 0#1 ++ BitVec.ofBool s.busy).setWidth 32

/-- RESULT and LAST_DEC: CH_PHASE in [11:8], CH_FATAL in [4], CODE in [3:0], every other bit 0 (R28, R31). -/
def resultWord (r : ResultReg) : Word :=
  (r.chPhase ++ 0#3 ++ BitVec.ofBool r.chFatal ++ codeNum r.code).setWidth 32

/-- CHECK: CK_RCVD in [15:8], CK_CALC in [7:0] (R39). -/
def checkWord (s : State) : Word := (s.ckRcvd ++ s.ckCalc).setWidth 32

/-- TRAILER: T1 in [15:8], T0 in [7:0] (R40). -/
def trailerWord (s : State) : Word := (s.trl1 ++ s.trl0).setWidth 32

/-- SYNC_PREV: PREV_VALID in [8], PREV in [7:0] (R43). -/
def syncPrevWord (s : State) : Word := (BitVec.ofBool s.prevValid ++ s.prev).setWidth 32

/-- SYNC1, the first byte of the marker (R102). -/
def sync1 : Byte := 0xA0

/-- SYNC2, the second byte of the marker (R102). -/
def sync2 : Byte := 0xA1

/-- TRL1, the first trailer byte (R102). -/
def trl1Byte : Byte := 0x0D

/-- TRL2, the second trailer byte (R102). -/
def trl2Byte : Byte := 0x0A

/-- The byte `b` completes the marker: the previous byte of this scan is 0xA0 and `b` is 0xA1 (R144). -/
def markerMatch (s : State) (b : Byte) : Bool := s.prevValid && s.prev == sync1 && b == sync2

/-- The scan has used its byte budget (R143). -/
def budgetSpent (s : State) : Bool := s.dec == .sync && decide (s.syncMax ≤ s.syncCnt)

/-- The ACK-wait loop stands between two decodes (R184). -/
def betweenAttempts (s : State) : Bool := s.busy && s.sess == .awaitingReply && s.dec == .idle

end Sys2Proof.Machine
end

