-- ==== Sys2Proof/Machine/Ops.lean ====
section
/-! DEFINITION. The named operations every meaning is written over: the written bytes of the buffers (R50), stops that leave the state marked (R10), the command start (R92), the end of an operation, which is all FSYNC has in place of a trap entry (R231, R246), and the reset input (R260). -/

namespace Sys2Proof.Machine

/-- The byte at a host address, if its written mark is set (R50). -/
def memRead : Memory → Nat → Option Byte
  | [], _ => none
  | (k, v) :: m, a => if k = a then some v else memRead m a

/-- Writing a byte sets its written mark (R50). -/
def memWrite : Memory → Nat → Byte → Memory
  | [], a, v => [(a, v)]
  | (k, w) :: m, a, v =>
    if a < k then (a, v) :: (k, w) :: m
    else if a = k then (a, v) :: m
    else (k, w) :: memWrite m a v

/-- `n` bytes from an address on, if every one of them is written. -/
def memReadBytes (m : Memory) (a : Nat) : Nat → Option (List Byte)
  | 0 => some []
  | n + 1 =>
    match memRead m a, memReadBytes m (a + 1) n with
    | some v, some vs => some (v :: vs)
    | _, _ => none

/-- Writing bytes to consecutive addresses. -/
def memWriteBytes (m : Memory) (a : Nat) : List Byte → Memory
  | [] => m
  | v :: vs => memWriteBytes (memWrite m a v) (a + 1) vs

/-- `raise Refused(reason)`: the state is marked refused, and no register or buffer changes (R10, R219). -/
def refuse (reason : State → Refusal) (s : State) : Host.Outcome State Fault Refusal :=
  .refused (reason { s with refused := true })

/-- `raise Fault(UNINIT_READ)`: the state is marked faulted (R10, R242). -/
def raiseUninit (s : State) : Host.Outcome State Fault Refusal :=
  .fault (.uninitRead { s with faulted := true })

/-- `CommandStart(op)` (R92). -/
def commandStart (op : OpCode) (s : State) : State :=
  { s with
    result := .zero
    lastDec := .zero
    attempts := 0
    sess := .idle
    op := op
    busy := true }

/-- `Finish(code, fatal, phase)`: the one end of every operation (R231). -/
def finish (code : Code) (fatal : Bool) (phase : BitVec 4) (s : State) : State :=
  { s with
    result := ⟨code, fatal, phase⟩
    busy := false
    rxpend := false
    txpend := false }

/-- `DecodeStart()` (R142): RXBUF and LAST_DEC keep what they hold. -/
def decodeStart (s : State) : State :=
  { s with
    dec := .sync
    rxId := 0
    rxLenf := 0
    rxCount := 0
    ckCalc := 0
    ckRcvd := 0
    trl0 := 0
    trl1 := 0
    syncCnt := 0
    syncDisc := 0
    prev := 0
    prevValid := false }

/-- The RESET input (R260): registers 0, marks clear, requests abandoned.
S.refused and S.faulted belong to the run, and the channel and the host are other agents: none of them changes. -/
def resetInput (s : State) : State :=
  { State.reset with
    refused := s.refused
    faulted := s.faulted
    sched := s.sched
    hostQ := s.hostQ
    rxQ := s.rxQ
    txQ := s.txQ
    txSent := s.txSent
    hostData := s.hostData }

end Sys2Proof.Machine
end

