-- ==== Sys2Proof/Machine/Codec.lean ====
section
/-! DEFINITION. The checksum generator and the frame encoder that ENCODE and SEND share (40_codec_encode.md). -/

namespace Sys2Proof.Machine

/-- `XorFold(id, p)` (R120). -/
def xorFold (id : Byte) (p : List Byte) : Byte := p.foldl (fun c b => c ^^^ b) id

/-- payload_len of a frame with `n` payload bytes (R96, R122). -/
def payloadLen (n : Nat) : BitVec 16 := BitVec.ofNat 16 (n + 1)

/-- `EncodeFrame(id, p)` (R122), the wire frame of R96. -/
def encodeFrame (id : Byte) (p : List Byte) : List Byte :=
  [sync1, sync2, hiByte (payloadLen p.length), loByte (payloadLen p.length), id]
    ++ p ++ [xorFold id p, trl1Byte, trl2Byte]

/-- The payload TXBUF[0..TX_LEN-1], if every byte of it is written (R126). -/
def txPayload (s : State) : Option (List Byte) :=
  memReadBytes s.mem (bufBase .txbuf) s.txLen.toNat

/-- `BuildFrame()` (R126): FRAMEBUF and FRAME_LEN, or nothing where a payload byte was never written. -/
def buildFrame (s : State) : Option State :=
  match txPayload s with
  | none => none
  | some p =>
    some { s with
      mem := memWriteBytes s.mem (bufBase .framebuf) (encodeFrame s.txId p)
      frameLen := BitVec.ofNat 17 (s.txLen.toNat + 8) }

/-- The frame presented to TXCH, FRAMEBUF[0..FRAME_LEN-1] (R70). -/
def presentedFrame (s : State) : List Byte :=
  (memReadBytes s.mem (bufBase .framebuf) s.frameLen.toNat).getD []

end Sys2Proof.Machine
end

