-- ==== Sys2Proof/Machine/Session.lean ====
section
/-! DEFINITION. The session side of a decode's end inside SEND (R185, R187), the actions of the reply classes (R188 to R190), and the answers of TXCH (R181, R182). -/

namespace Sys2Proof.Machine

/-- A block action: the state it leaves, and the reply class to run where a frame was decoded inside SEND (R187). -/
abbrev Block := State × Option Instr

/-- What `Classify()` looks at (R187): RX_ID, and whether the payload's first byte names the command in flight.
A frame with an empty payload names none, and RXBUF[0] is read only for RX_LENF ≥ 2 (R100). -/
def replyKey (s : State) : ReplyKey where
  id := s.rxId
  mismatch := !(decide (2 ≤ s.rxLenf.toNat) && memRead s.mem (bufBase .rxbuf) == some s.txId)

/-- `SessionDecodeEnd(code, fatal, phase)` (R185): a fatal channel error fails the session, a frame is classified, and anything else only consumes the attempt (R186). -/
def sessionDecodeEnd (code : Code) (fatal : Bool) (phase : BitVec 4) (s : State) : Block :=
  if code = .channelError ∧ fatal = true then
    (finish .channelError true phase { s with sess := .failed }, none)
  else if code = .ok then (s, some (decodeReply (replyKey s)))
  else (s, none)

/-- `NackMatch()` (R188). -/
def nackMatchAct (s : State) : State := finish .commandRejected false 0 { s with sess := .nacked }

/-- `AckMatch()` (R189). -/
def ackMatchAct (s : State) : State := finish .ok false 0 { s with sess := .acked }

/-- `Unrelated()` (R190): nothing of its own; the attempt was counted when it started. -/
def unrelatedAct (s : State) : State := s

/-- SENDING, on `WriteErr` (R181): CH_PHASE 15 marks the frame write. -/
def txWriteErr (s : State) : State :=
  finish .channelError true 15 { s with txpend := false, sess := .failed }

/-- SENDING, on `WriteOk` (R182): every byte of the presented frame was written (R70). -/
def txWriteOk (s : State) : State :=
  { s with
    txpend := false
    sess := .awaitingReply
    txSent := s.txSent ++ [presentedFrame s] }

/-- A BLOCK step on an answer of TXCH. -/
def blockTx : TxAnswer → State → State
  | .writeOk, s => txWriteOk s
  | .writeErr, s => txWriteErr s

end Sys2Proof.Machine
end

