-- ==== Sys2Proof/Machine/Receive.lean ====
section
/-! DEFINITION. The decoder: what each phase does with the byte it waited for, how a channel error ends it, and how every decode ends (41_receive.md, R140 to R160). -/

namespace Sys2Proof.Machine

/-- `EndDecode(code, fatal, phase)` (R141). -/
def endDecode (code : Code) (fatal : Bool) (phase : BitVec 4) (s : State) : Block :=
  let t := { s with lastDec := ⟨code, fatal, phase⟩, dec := .idle }
  if s.op = .recv then (finish code fatal phase t, none)
  else sessionDecodeEnd code fatal phase t

/-- SYNC, on `Byte(b)` (R144). -/
def syncByte (b : Byte) (s : State) : State :=
  let t := { s with syncCnt := s.syncCnt + 1, prev := b, prevValid := true }
  if markerMatch s b then { t with syncDisc := s.syncCnt + 1 - 2, dec := .lenHi } else t

/-- LEN_HI, on `Byte(b)` (R148). -/
def lenHiByte (b : Byte) (s : State) : State :=
  { s with rxLenf := ofBytes16 b (loByte s.rxLenf), dec := .lenLo }

/-- LEN_LO, on `Byte(b)` (R149). -/
def lenLoByte (b : Byte) (s : State) : State :=
  { s with rxLenf := ofBytes16 (hiByte s.rxLenf) b, dec := .msgId }

/-- MSG_ID, on `Byte(b)` (R151): a length field of 0 is judged here, after the id byte. -/
def msgIdByte (b : Byte) (s : State) : Block :=
  let t := { s with rxId := b, ckCalc := b }
  if s.rxLenf = 0 then endDecode .invalidLength false 0 t
  else if s.rxLenf = 1 then ({ t with dec := .checksum }, none)
  else ({ t with dec := .payload }, none)

/-- PAYLOAD, on `Byte(b)` (R153). -/
def payloadByte (b : Byte) (s : State) : State :=
  let t := { s with
    mem := memWrite s.mem (bufBase .rxbuf + s.rxCount.toNat) b
    ckCalc := s.ckCalc ^^^ b
    rxCount := s.rxCount + 1 }
  if s.rxCount + 1 = s.rxLenf - 1 then { t with dec := .checksum } else t

/-- CHECKSUM, on `Byte(b)` (R155): the trailer is not read after a mismatch. -/
def checksumByte (b : Byte) (s : State) : Block :=
  let t := { s with ckRcvd := b }
  if b ≠ s.ckCalc then endDecode .checksumMismatch false 0 t
  else ({ t with dec := .trailer0 }, none)

/-- TRAILER0, on `Byte(b)` (R156). -/
def trailer0Byte (b : Byte) (s : State) : State := { s with trl0 := b, dec := .trailer1 }

/-- TRAILER1, on `Byte(b)` (R158): both bytes are judged here (R157). -/
def trailer1Byte (b : Byte) (s : State) : Block :=
  let t := { s with trl1 := b }
  if s.trl0 = trl1Byte ∧ b = trl2Byte then endDecode .ok false 0 t
  else endDecode .invalidTrailer false 0 t

/-- A channel error in any phase (R146). -/
def channelErrorIn (fatal : Bool) (s : State) : Block :=
  let t := if s.dec = .sync then { s with syncDisc := s.syncCnt } else s
  endDecode .channelError fatal (phaseNum s.dec) t

/-- The byte that the phase waited for (R147); an idle decoder waits for none. -/
def phaseByte (b : Byte) (s : State) : Block :=
  match s.dec with
  | .idle => (s, none)
  | .sync => (syncByte b s, none)
  | .lenHi => (lenHiByte b s, none)
  | .lenLo => (lenLoByte b s, none)
  | .msgId => msgIdByte b s
  | .payload => (payloadByte b s, none)
  | .checksum => checksumByte b s
  | .trailer0 => (trailer0Byte b s, none)
  | .trailer1 => trailer1Byte b s

/-- A BLOCK step on an answer of RXCH, before Settle (R147). -/
def blockRx : RxEvent → State → Block
  | .byte b, s => phaseByte b s
  | .timeout, s => channelErrorIn false s
  | .fatal, s => channelErrorIn true s

end Sys2Proof.Machine
end

