-- ==== Sys2Proof/Machine/Settle.lean ====
section
/-! DEFINITION. Settle (R9): the input-free transitions, the sync budget check (R143) and the ACK-wait iteration control (R184), until the block is idle or waits for a channel answer. -/

namespace Sys2Proof.Machine

/-- The sync budget check, where it applies (R143). -/
def syncTimeoutAct (s : State) : State :=
  (endDecode .syncTimeout false 0 { s with syncDisc := s.syncCnt }).1

/-- The ACK-wait iteration control, where it applies (R184): the budget is tested only before an attempt starts. -/
def iterationAct (s : State) : State :=
  if s.ackMax ≤ s.attempts then finish .ackTimeout false 0 { s with sess := .exhausted }
  else decodeStart { s with attempts := s.attempts + 1 }

/-- One input-free transition, if one applies; the two never both apply (R244). -/
def settleStep (s : State) : Option State :=
  if budgetSpent s then some (syncTimeoutAct s)
  else if betweenAttempts s then some (iterationAct s)
  else none

/-- At most `n` input-free transitions. -/
def settleLoop : Nat → State → State
  | 0, s => s
  | n + 1, s =>
    match settleStep s with
    | none => s
    | some t => settleLoop n t

/-- Enough transitions for Settle to stop (R9): two for each attempt that is left, and two more. -/
def settleFuel (s : State) : Nat := 2 * (s.ackMax.toNat - s.attempts.toNat) + 2

/-- `Settle` (R9): the input-free transitions, after which a running decode has its byte request outstanding (R46, R68). -/
def settle (s : State) : State :=
  let t := settleLoop (settleFuel s) s
  { t with rxpend := t.dec != .idle }

end Sys2Proof.Machine
end

