-- ==== Sys2Proof/Machine/Agents.lean ====
section
/-! DEFINITION. One turn of the agent that the schedule names (R6, R9): what it takes from its own queue, and what is left to run. -/

namespace Sys2Proof.Machine

/-- What a turn comes to: a state with nothing left to run, or an instruction to run in a state. -/
inductive Move where
  | done (s : State)
  | run (i : Instr) (s : State)
deriving DecidableEq, Repr

/-- A block action with its Settle (R9), which for a classified reply belongs to the reply's own meaning. -/
def afterBlock (b : Block) : Move :=
  match b.2 with
  | none => .done (settle b.1)
  | some i => .run i b.1

/-- The host issues its next access, if it has one (R210). -/
def hostTurn (s : State) : Move :=
  match s.hostQ with
  | [] => .done s
  | r :: rs => .run (decodeHost r) { s with hostQ := rs }

/-- RXCH answers the outstanding byte request, if there is one and it has an answer (R68); otherwise the block goes on waiting (R254). -/
def rxTurn (s : State) : Move :=
  if s.rxpend then
    match s.rxQ with
    | [] => .done s
    | e :: es => afterBlock (blockRx e { s with rxQ := es, rxpend := false })
  else .done s

/-- TXCH answers the outstanding frame write, if there is one and it has an answer (R70). -/
def txTurn (s : State) : Move :=
  if s.txpend then
    match s.txQ with
    | [] => .done s
    | a :: as => .done (settle (blockTx a { s with txQ := as }))
  else .done s

/-- The turn of the agent that moves next (R75); with nobody scheduled the machine waits unchanged (R254). -/
def turn (s : State) : Move :=
  match s.sched with
  | [] => .done s
  | .host :: rest => hostTurn { s with sched := rest }
  | .rxch :: rest => rxTurn { s with sched := rest }
  | .txch :: rest => txTurn { s with sched := rest }
  | .reset :: rest => .done (resetInput { s with sched := rest })

/-- `s` with the host about to issue the access `r`. -/
def placeHost (r : HostReq) (s : State) : State :=
  { s with sched := .host :: s.sched, hostQ := r :: s.hostQ }

/-- `s` with a SEND in its ACK-wait loop, at the last trailer byte of a frame whose class has the key `k` (log entry 7).
The reply's payload byte 0 is written to RXBUF, and it is TX_ID unless `k` says otherwise. -/
def placeReply (k : ReplyKey) (s : State) : State :=
  { s with
    busy := true
    op := .send
    sess := .awaitingReply
    dec := .trailer1
    rxpend := true
    txpend := false
    rxId := k.id
    rxLenf := if k.mismatch then 1 else 2
    rxCount := if k.mismatch then 0 else 1
    trl0 := trl1Byte
    mem := memWrite s.mem (bufBase .rxbuf) s.txId
    sched := .rxch :: s.sched
    rxQ := .byte trl2Byte :: s.rxQ }

end Sys2Proof.Machine
end

