-- ==== Sys2Proof/Machine/Commands.lean ====
section
/-! DEFINITION. The three commands (R127, R170, R180) and the reserved command words (R93). -/

namespace Sys2Proof.Machine

/-- ENCODE after the check of BUSY (R127, R213): the length check (R125), the frame, and the end of the operation, in one step. -/
def startEncode (s : State) : Host.Outcome State Fault Refusal :=
  if s.txLen = 65535 then refuse .txLenOverflow s
  else
    match buildFrame (commandStart .encode s) with
    | none => raiseUninit (commandStart .encode s)
    | some t => .next (settle (finish .ok false 0 t))

/-- RECV after the check of BUSY (R170, R213). -/
def startRecv (s : State) : Host.Outcome State Fault Refusal :=
  .next (settle (decodeStart (commandStart .recv s)))

/-- SEND after the check of BUSY (R180, R213): the frame is built and presented to TXCH. -/
def startSend (s : State) : Host.Outcome State Fault Refusal :=
  if s.txLen = 65535 then refuse .txLenOverflow s
  else
    match buildFrame (commandStart .send s) with
    | none => raiseUninit (commandStart .send s)
    | some t => .next (settle { t with sess := .sending, txpend := true })

/-- ENCODE (R127). -/
def execEncode (s : State) : Host.Outcome State Fault Refusal :=
  if s.busy then refuse .busy s else startEncode s

/-- RECV (R170). -/
def execRecv (s : State) : Host.Outcome State Fault Refusal :=
  if s.busy then refuse .busy s else startRecv s

/-- SEND (R180). -/
def execSend (s : State) : Host.Outcome State Fault Refusal :=
  if s.busy then refuse .busy s else startSend s

/-- A reserved command word (R93): a reserved OP is refused before reserved bits are (R213). -/
def execCmdReserved (w : Word) (s : State) : Host.Outcome State Fault Refusal :=
  if s.busy then refuse .busy s
  else if opField w ≠ 1 ∧ opField w ≠ 2 ∧ opField w ≠ 3 then refuse .reservedOpcode s
  else refuse .reservedBits s

end Sys2Proof.Machine
end

