-- ==== Sys2Proof/Machine/HostBus.lean ====
section
/-! DEFINITION. The four host bus operations (43_host_bus.md): one common access path (R210) over register reads (R211), register writes (R212, R213, R215) and buffer bytes (R214). -/

namespace Sys2Proof.Machine

/-- The word a register reads as (R211): CMD reads 0, and so does every reserved bit. -/
def regWord (r : Reg) (s : State) : Word :=
  match r with
  | .cmd => 0
  | .status => statusWord s
  | .result => resultWord s.result
  | .lastDec => resultWord s.lastDec
  | .syncMax => s.syncMax
  | .ackMax => s.ackMax
  | .txId => s.txId.setWidth 32
  | .txLen => s.txLen.setWidth 32
  | .rxId => s.rxId.setWidth 32
  | .rxLenf => s.rxLenf.setWidth 32
  | .rxCount => s.rxCount.setWidth 32
  | .check => checkWord s
  | .trailer => trailerWord s
  | .syncCnt => s.syncCnt
  | .syncDisc => s.syncDisc
  | .syncPrev => syncPrevWord s
  | .attempts => s.attempts
  | .frameLen => s.frameLen.setWidth 32

/-- `RegRead(off)` (R211): the value goes to the host; FSYNC does not change (R73). -/
def regRead (r : Reg) (s : State) : Host.Outcome State Fault Refusal :=
  .next { s with hostData := regWord r s }

/-- `CmdWrite(d)` (R213), with BUSY already checked. -/
def cmdWrite (d : Word) (s : State) : Host.Outcome State Fault Refusal :=
  if opField d ≠ 1 ∧ opField d ≠ 2 ∧ opField d ≠ 3 then refuse .reservedOpcode s
  else if cmdRsvd d ≠ 0 then refuse .reservedBits s
  else if opField d = 1 then startEncode s
  else if opField d = 2 then startRecv s
  else startSend s

/-- A write to TX_ID (R215). -/
def txIdWrite (d : Word) (s : State) : Host.Outcome State Fault Refusal :=
  if txIdRsvd d ≠ 0 then refuse .reservedBits s else .next { s with txId := d.setWidth 8 }

/-- A write to TX_LEN (R215): 65535 is accepted here and refused on use. -/
def txLenWrite (d : Word) (s : State) : Host.Outcome State Fault Refusal :=
  if txLenRsvd d ≠ 0 then refuse .reservedBits s else .next { s with txLen := d.setWidth 16 }

/-- The five registers a host may write (R212). -/
def writable (r : Reg) : Bool :=
  match r with
  | .cmd | .syncMax | .ackMax | .txId | .txLen => true
  | _ => false

/-- `RegWrite(off, d)` (R212, R215): READ_ONLY is checked before BUSY. -/
def regWrite (r : Reg) (d : Word) (s : State) : Host.Outcome State Fault Refusal :=
  if writable r = false then refuse .readOnly s
  else if s.busy then refuse .busy s
  else
    match r with
    | .cmd => cmdWrite d s
    | .syncMax => .next { s with syncMax := d }
    | .ackMax => .next { s with ackMax := d }
    | .txId => txIdWrite d s
    | .txLen => txLenWrite d s
    | _ => refuse .readOnly s

/-- `BufRead(region, A)` (R214): a byte nobody wrote faults. -/
def bufRead (a : Nat) (s : State) : Host.Outcome State Fault Refusal :=
  match memRead s.mem a with
  | none => raiseUninit s
  | some v => .next { s with hostData := v.setWidth 32 }

/-- `BufWrite(region, A, v)` (R214). -/
def bufWrite (b : Buf) (a : Nat) (v : Byte) (s : State) : Host.Outcome State Fault Refusal :=
  if b ≠ .txbuf then refuse .readOnly s
  else if s.busy then refuse .busy s
  else .next { s with mem := memWrite s.mem a v }

/-- `HostAccess(W, SZ, A, d)` (R210): the checks in their order; the first that fails names the refusal. -/
def hostAccess (w sz : Bool) (a : Nat) (d : Word) (s : State) : Host.Outcome State Fault Refusal :=
  match region a with
  | .reserved => refuse .badAddress s
  | .reg =>
    if sz = false then refuse .badWidth s
    else
      match regAt a with
      | none => refuse .badWidth s
      | some r => if w then regWrite r d s else regRead r s
  | .buf b =>
    if sz then refuse .badWidth s
    else if w then bufWrite b a (d.setWidth 8) s
    else bufRead a s

/-- RD (R211). -/
def execRd (addr : BitVec 20) (s : State) : Host.Outcome State Fault Refusal :=
  hostAccess false true addr.toNat 0 s

/-- WR (R212). -/
def execWr (addr : BitVec 20) (data : Word) (s : State) : Host.Outcome State Fault Refusal :=
  hostAccess true true addr.toNat data s

/-- RDB (R214). -/
def execRdb (addr : BitVec 20) (s : State) : Host.Outcome State Fault Refusal :=
  hostAccess false false addr.toNat 0 s

/-- WRB (R214). -/
def execWrb (addr : BitVec 20) (data : Byte) (s : State) : Host.Outcome State Fault Refusal :=
  hostAccess true false addr.toNat (data.setWidth 32) s

end Sys2Proof.Machine
end

