-- ==== Sys2Proof/Machine/Replies.lean ====
section
/-! DEFINITION. The three reply classes as instructions (R100, R187): each is the action its rule gives, and Settle after it, since it ends a BLOCK step (R9). -/

namespace Sys2Proof.Machine

/-- NACK_MATCH (R188). -/
def execNackMatch (s : State) : Host.Outcome State Fault Refusal := .next (settle (nackMatchAct s))

/-- ACK_MATCH (R189). -/
def execAckMatch (s : State) : Host.Outcome State Fault Refusal := .next (settle (ackMatchAct s))

/-- UNRELATED (R190): the loop goes on whatever the frame's id is. -/
def execUnrelated (_id : Byte) (_mismatch : Bool) (s : State) : Host.Outcome State Fault Refusal :=
  .next (settle (unrelatedAct s))

end Sys2Proof.Machine
end

