-- ==== Sys2Proof/Machine/Dispatch.lean ====
section
/-! DEFINITION. One arm per instruction: the call of its meaning. -/

namespace Sys2Proof.Machine

def exec (i : Instr) (s : State) : Host.Outcome State Fault Refusal :=
  match i with
  | .encode => Sys2Proof.Machine.execEncode s
  | .recv => Sys2Proof.Machine.execRecv s
  | .send => Sys2Proof.Machine.execSend s
  | .cmdReserved w => Sys2Proof.Machine.execCmdReserved w s
  | .rd addr => Sys2Proof.Machine.execRd addr s
  | .wr addr data => Sys2Proof.Machine.execWr addr data s
  | .rdb addr => Sys2Proof.Machine.execRdb addr s
  | .wrb addr data => Sys2Proof.Machine.execWrb addr data s
  | .nackMatch => Sys2Proof.Machine.execNackMatch s
  | .ackMatch => Sys2Proof.Machine.execAckMatch s
  | .unrelated id mismatch => Sys2Proof.Machine.execUnrelated id mismatch s

end Sys2Proof.Machine
end

