-- ==== Sys2Proof/Machine/Step.lean ====
section
/-! DEFINITION. One step of the machine: the turn of the agent that moves next, and the instruction it brings (R9, R75). -/

namespace Sys2Proof.Machine

/-- One step: a next state, a fault or a refusal. -/
def step (s : State) : Host.Outcome State Fault Refusal :=
  match turn s with
  | .done t => .next t
  | .run i t => exec i t

/-- `s` with the instruction of a table word as the very next thing that `step` runs (log entry 7); unchanged where the word is no encoding. -/
def State.withFetchWord (s : State) (nbits w : Nat) : State :=
  match tableRaw nbits w with
  | none => s
  | some (.host r) => placeHost r s
  | some (.reply k) => placeReply k s

end Sys2Proof.Machine
end

