-- ==== Sys2Proof/Safety.lean ====
section
/-! DEFINITION. The terms that claims about FSYNC use: what a register shows as a number, the cause of every refusal and fault (R219, R242), the invariants of the machine, the session transitions (R191), the bound on channel answers (R282), and noise without a marker (R145). -/

namespace Sys2Proof.Machine

/-- The number RESULT or LAST_DEC shows (R28, R31). -/
def resultImage (r : ResultReg) : Nat :=
  r.chPhase.toNat * 256 + r.chFatal.toNat * 16 + (codeNum r.code).toNat

/-- The number a register shows to the host (R211), by its fields' weights. -/
def regImage (r : Reg) (s : State) : Nat :=
  match r with
  | .cmd => 0
  | .status =>
    (phaseNum s.dec).toNat * 256 + (sessNum s.sess).toNat * 16 + (opNum s.op).toNat * 4 + s.busy.toNat
  | .result => resultImage s.result
  | .lastDec => resultImage s.lastDec
  | .syncMax => s.syncMax.toNat
  | .ackMax => s.ackMax.toNat
  | .txId => s.txId.toNat
  | .txLen => s.txLen.toNat
  | .rxId => s.rxId.toNat
  | .rxLenf => s.rxLenf.toNat
  | .rxCount => s.rxCount.toNat
  | .check => s.ckRcvd.toNat * 256 + s.ckCalc.toNat
  | .trailer => s.trl1.toNat * 256 + s.trl0.toNat
  | .syncCnt => s.syncCnt.toNat
  | .syncDisc => s.syncDisc.toNat
  | .syncPrev => s.prevValid.toNat * 256 + s.prev.toNat
  | .attempts => s.attempts.toNat
  | .frameLen => s.frameLen.toNat

/-- The state that a refusal of R219 leaves. -/
def Refusal.left : Refusal → Option State
  | .badAddress t => some t
  | .badWidth t => some t
  | .readOnly t => some t
  | .busy t => some t
  | .reservedOpcode t => some t
  | .reservedBits t => some t
  | .txLenOverflow t => some t
  | _ => none

/-- The address an access names; a command is an access of CMD at address 0 (R90). -/
def accessAddr : Instr → Option Nat
  | .encode | .recv | .send | .cmdReserved _ => some 0
  | .rd a | .wr a _ | .rdb a | .wrb a _ => some a.toNat
  | .nackMatch | .ackMatch | .unrelated _ _ => none

/-- The access is a word access (SZ = 1). -/
def isWordAccess : Instr → Bool
  | .encode | .recv | .send | .cmdReserved _ | .rd _ | .wr _ _ => true
  | _ => false

/-- The register that a word write names; a command is a write of CMD (R90). -/
def regWritten : Instr → Option Reg
  | .encode | .recv | .send | .cmdReserved _ => some .cmd
  | .wr a _ => regAt a.toNat
  | _ => none

/-- The buffer that a byte write names (R61, R214). -/
def bufWritten : Instr → Option Buf
  | .wrb a _ => match region a.toNat with
    | .buf b => some b
    | _ => none
  | _ => none

/-- The command word that an access writes to CMD, if it is a command. -/
def commandWord : Instr → Option Word
  | .encode => some 1
  | .recv => some 2
  | .send => some 3
  | .cmdReserved w => some w
  | .wr a d => if a = 0 then some d else none
  | _ => none

/-- The word that an access writes to the register `r`. -/
def writesReg (r : Reg) : Instr → Option Word
  | .wr a d => if regAt a.toNat = some r then some d else none
  | _ => none

/-- The cause that R219 gives for each refusal, of the access `i` in the state `s`, row by row: READ_ONLY and BUSY tell a word write of a register from a byte write of a buffer. -/
def refusalCause (i : Instr) (s : State) : Refusal → Prop
  | .badAddress _ => ∃ a, accessAddr i = some a ∧ region a = .reserved
  | .badWidth _ => ∃ a, accessAddr i = some a ∧
      ((region a = .reg ∧ (isWordAccess i = false ∨ a % 4 ≠ 0)) ∨
        (∃ b, region a = .buf b ∧ isWordAccess i = true))
  | .readOnly _ => (∃ r, regWritten i = some r ∧ writable r = false) ∨
      bufWritten i = some .rxbuf ∨ bufWritten i = some .framebuf
  | .busy _ => s.busy = true ∧
      ((∃ r, regWritten i = some r ∧ writable r = true) ∨ bufWritten i = some .txbuf)
  | .reservedOpcode _ => ∃ w, commandWord i = some w ∧ (w.toNat % 16 = 0 ∨ 4 ≤ w.toNat % 16)
  | .reservedBits _ =>
      (∃ w, commandWord i = some w ∧ 16 ≤ w.toNat) ∨
      (∃ d, writesReg .txId i = some d ∧ 2 ^ 8 ≤ d.toNat) ∨
      (∃ d, writesReg .txLen i = some d ∧ 2 ^ 16 ≤ d.toNat)
  | .txLenOverflow _ => (commandWord i = some 1 ∨ commandWord i = some 3) ∧ s.txLen = 65535
  | _ => False

/-- The cause that R242 gives for the fault. -/
def faultCause (i : Instr) (s : State) : Prop :=
  (∃ a : BitVec 20, i = .rdb a ∧ memRead s.mem a.toNat = none) ∨
  ((commandWord i = some 1 ∨ commandWord i = some 3) ∧
    ∃ k, k < s.txLen.toNat ∧ memRead s.mem (bufBase .txbuf + k) = none)

/-- Control: which requests are outstanding, and how BUSY, OP, SESS and DEC go together (R24, R26, R27, R46, R240). -/
structure ControlInv (s : State) : Prop where
  rx_request : s.rxpend = (s.dec != .idle)
  tx_request : s.txpend = (s.sess == .sending)
  decode_runs : s.dec ≠ .idle → s.busy = true ∧ (s.op = .recv ∨ s.op = .send ∧ s.sess = .awaitingReply)
  sending_runs : s.sess = .sending → s.busy = true ∧ s.dec = .idle
  awaiting_runs : s.sess = .awaitingReply → s.busy = true ∧ s.dec ≠ .idle
  busy_waits : s.busy = true → s.dec ≠ .idle ∨ s.sess = .sending
  sess_of_send : s.op = .send ↔ s.sess ≠ .idle
  running_result : s.busy = true → s.result = .zero

/-- Parser: the bounds of the counters, and what each phase of a decode knows (R41, R44, R52, R143 to R153). -/
structure ParserInv (s : State) : Prop where
  count_bound : s.rxCount.toNat ≤ 65534
  frame_bound : s.frameLen.toNat ≤ 65542
  scan_budget : s.dec ≠ .idle → s.syncCnt ≤ s.syncMax
  scan_goes_on : s.dec = .sync →
    s.syncCnt < s.syncMax ∧ s.syncDisc = 0 ∧ s.prevValid = (s.syncCnt != 0)
  marker_seen : s.dec ≠ .idle → s.dec ≠ .sync →
    2 ≤ s.syncCnt.toNat ∧ s.syncDisc = s.syncCnt - 2 ∧ s.prevValid = true ∧ s.prev = sync2
  no_payload_yet : s.dec = .sync ∨ s.dec = .lenHi ∨ s.dec = .lenLo ∨ s.dec = .msgId → s.rxCount = 0
  payload_open : s.dec = .payload → s.rxCount.toNat + 1 < s.rxLenf.toNat
  payload_done : s.dec = .checksum ∨ s.dec = .trailer0 ∨ s.dec = .trailer1 →
    s.rxCount.toNat + 1 = s.rxLenf.toNat
  attempt_counted : s.sess = .awaitingReply → 1 ≤ s.attempts.toNat ∧ s.attempts ≤ s.ackMax
  no_attempt_yet : s.sess = .sending → s.attempts = 0

/-- The payload of the decode so far is in RXBUF, and the running checksum folds it (R153, R154). -/
def ChecksumInv (s : State) : Prop :=
  s.dec = .payload ∨ s.dec = .checksum ∨ s.dec = .trailer0 ∨ s.dec = .trailer1 →
    ∃ p, memReadBytes s.mem (bufBase .rxbuf) s.rxCount.toNat = some p ∧ s.ckCalc = xorFold s.rxId p

/-- Memory is in canonical form, and only buffer bytes are listed (R61). -/
def MemoryInv (s : State) : Prop :=
  s.mem.wf ∧ ∀ c ∈ s.mem, ∃ b, region c.1 = .buf b

/-- FRAMEBUF[0..FRAME_LEN-1] is written, and while a SEND waits for TXCH it is the frame of TX_ID and TXBUF[0..TX_LEN-1] (R51, R126). -/
def FrameInv (s : State) : Prop :=
  (∃ f, memReadBytes s.mem (bufBase .framebuf) s.frameLen.toNat = some f) ∧
  (s.sess = .sending → s.txLen ≠ 65535 ∧
    ∃ p, txPayload s = some p ∧ presentedFrame s = encodeFrame s.txId p)

/-- The session transitions of R191 as one step shows them: Settle may take the iteration control in the step of the event before it. -/
def sessMayFollow (s t : State) : Prop :=
  t.sess = s.sess ∨
  (s.busy = false ∧ (t.sess = .idle ∨ t.sess = .sending)) ∨
  (s.busy = true ∧ s.sess = .sending ∧
    (t.sess = .failed ∨ t.sess = .awaitingReply ∨ t.sess = .exhausted)) ∨
  (s.busy = true ∧ s.sess = .awaitingReply ∧
    (t.sess = .failed ∨ t.sess = .nacked ∨ t.sess = .acked ∨ t.sess = .exhausted))

/-- The session is in a terminal state (R26). -/
def Sess.terminal : Sess → Bool
  | .acked | .nacked | .exhausted | .failed => true
  | _ => false

/-- The most bytes that one decode consumes: SYNC_MAX + 65540 (R194). -/
def decodeMost (s : State) : Nat := s.syncMax.toNat + 65540

/-- The most answers of RXCH that the running decode still takes (R159). -/
def decodeLeft (s : State) : Nat :=
  match s.dec with
  | .idle => 0
  | .sync => (s.syncMax.toNat - s.syncCnt.toNat) + 65540
  | .lenHi => 65540
  | .lenLo => 65539
  | .msgId => 65538
  | .payload => (65534 - s.rxCount.toNat) + 3
  | .checksum => 3
  | .trailer0 => 2
  | .trailer1 => 1

/-- The most channel answers that the running operation still takes (R282). -/
def answersLeft (s : State) : Nat :=
  if s.busy = false then 0
  else if s.op = .recv then decodeLeft s
  else (if s.sess = .sending then 1 else 0) + decodeLeft s
    + (s.ackMax.toNat - s.attempts.toNat) * decodeMost s

/-- RXCH answers the outstanding byte request with `e` in this step; `rest` and `es` are what is left of the schedule and of RXCH's answers. -/
def rxAnswers (s : State) (e : RxEvent) (rest : List Agent) (es : List RxEvent) : Prop :=
  s.sched = .rxch :: rest ∧ s.rxQ = e :: es ∧ s.rxpend = true

/-- TXCH answers the presented frame with `a` in this step. -/
def txAnswers (s : State) (a : TxAnswer) (rest : List Agent) (as : List TxAnswer) : Prop :=
  s.sched = .txch :: rest ∧ s.txQ = a :: as ∧ s.txpend = true

/-- The outcome with which the event `e` ends the running decode, if it ends it with a failure (R143, R146, R151, R155, R158). -/
def decodeFailure (e : RxEvent) (s : State) : Option ResultReg :=
  match e with
  | .timeout => some ⟨.channelError, false, phaseNum s.dec⟩
  | .fatal => some ⟨.channelError, true, phaseNum s.dec⟩
  | .byte b =>
    match s.dec with
    | .sync =>
      if markerMatch s b = false ∧ s.syncMax.toNat ≤ s.syncCnt.toNat + 1 then some ⟨.syncTimeout, false, 0⟩
      else none
    | .msgId => if s.rxLenf = 0 then some ⟨.invalidLength, false, 0⟩ else none
    | .checksum => if b = s.ckCalc then none else some ⟨.checksumMismatch, false, 0⟩
    | .trailer1 => if s.trl0 = 0x0D ∧ b = 0x0A then none else some ⟨.invalidTrailer, false, 0⟩
    | _ => none

/-- No adjacent pair 0xA0 0xA1 stands in the bytes (R145, R171). -/
def noMarker : List Byte → Bool
  | a :: b :: z => !(a == sync1 && b == sync2) && noMarker (b :: z)
  | _ => true

/-- The host's next turn issues a RECV, and then RXCH answers with exactly the bytes `z`, its next ones, one a turn. -/
def recvThenBytes (z : List Byte) (s : State) : Prop :=
  s.busy = false ∧ s.dec = .idle ∧
  (∃ hs, s.hostQ = .cmd 2 :: hs) ∧
  (∃ es, s.rxQ = z.map .byte ++ es) ∧
  ∃ as, s.sched = .host :: List.replicate z.length .rxch ++ as

end Sys2Proof.Machine
end

