-- ==== Sys2Proof/Certificates/Slice0/Obligations.lean ====
section
/-! DEFINITION. The statements about FSYNC, one for each entry of OBLIGATIONS.json.
In statements about a step, sched, hostQ, rxQ, txQ, txSent and hostData are the model's own record of the other agents (log entries 1, 2 and 3): a turn and an answer are taken off them, and the rules cited say nothing of them. -/

open Sys2Proof Sys2Proof.Machine

/- ## Encodings -/

/-- R90, R95, R100: decoding the encoding of a well-formed instruction gives it back, with every operand. -/
def Obligations.DecodeOfEncodeIsTheInstruction : Prop :=
  ∀ i : Instr, i.wellFormed = true → decode (encode i) = i

/-- R90, R95, R100: whatever is decoded is well-formed, and its encoding is the object it was read from, but for the data bits that the access does not carry. -/
def Obligations.EncodeOfDecodeIsTheObject : Prop :=
  (∀ r : Raw, (decode r).wellFormed = true) ∧
  (∀ w, encode (decode (.host (.cmd w))) = .host (.cmd w)) ∧
  (∀ k, encode (decode (.reply k)) = .reply k) ∧
  ∀ (q : BitVec 22) (d : Word), ∃ d' : Word,
    encode (decode (.host (.bus q d))) = .host (.bus q d') ∧
    (q.getLsbD 21 = true → q.getLsbD 20 = true → d' = d) ∧
    (q.getLsbD 21 = true → q.getLsbD 20 = false → d'.toNat = d.toNat % 256)

/-- R91: a CMD value selects an operation only when it is exactly 1, 2 or 3. -/
def Obligations.CommandWordSelectsOperation : Prop :=
  ∀ w : Word,
    (decodeCmd w = .encode ↔ w.toNat = 1) ∧ (decodeCmd w = .recv ↔ w.toNat = 2) ∧
    (decodeCmd w = .send ↔ w.toNat = 3) ∧
    (decodeCmd w = .cmdReserved w ↔ w.toNat ≠ 1 ∧ w.toNat ≠ 2 ∧ w.toNat ≠ 3)

/-- R91, R95, R100, R220: words written out in the spec decode to what they stand for. -/
def Obligations.WordsOfTheSpecDecode : Prop :=
  decodeHost (.bus 0x100004 0) = .rd 0x00004 ∧
  decodeHost (.bus 0x300010 0x00000010) = .wr 0x00010 0x00000010 ∧
  decodeHost (.bus 0x010000 0) = .rdb 0x10000 ∧
  decodeHost (.bus 0x210000 0x02) = .wrb 0x10000 0x02 ∧
  decodeHost (.cmd 0x00000003) = .send ∧
  decodeReply ⟨0x84, false⟩ = .nackMatch ∧
  decodeReply ⟨0x83, false⟩ = .ackMatch ∧
  decodeReply ⟨0x83, true⟩ = .unrelated 0x83 true

/-- R100, R187: the class of the decoded frame, by RX_ID, RX_LENF and RXBUF[0] against TX_ID. -/
def Obligations.ReplyClassOfDecodedFrame : Prop :=
  ∀ s : State,
    let named := 2 ≤ s.rxLenf.toNat ∧ memRead s.mem 0x20000 = some s.txId
    (decodeReply (replyKey s) = .nackMatch ↔ s.rxId = 0x84 ∧ named) ∧
    (decodeReply (replyKey s) = .ackMatch ↔ s.rxId = 0x83 ∧ named) ∧
    ((∃ id m, decodeReply (replyKey s) = .unrelated id m) ↔
      ¬ (s.rxId = 0x84 ∧ named) ∧ ¬ (s.rxId = 0x83 ∧ named))

/- ## The checksum and the frame -/

/-- R96, R122, R123: every byte of the wire frame, by its offset. -/
def Obligations.FrameHasTheWireFormat : Prop :=
  ∀ (id : Byte) (p : List Byte), p.length ≤ 65534 →
    let f := encodeFrame id p
    f.length = p.length + 8 ∧
    f[0]? = some 0xA0 ∧ f[1]? = some 0xA1 ∧
    (∃ hi lo, f[2]? = some hi ∧ f[3]? = some lo ∧ hi.toNat * 256 + lo.toNat = p.length + 1) ∧
    f[4]? = some id ∧
    (∀ k, k < p.length → f[5 + k]? = p[k]?) ∧
    f[5 + p.length]? = some (p.foldl (fun c b => c ^^^ b) id) ∧
    f[6 + p.length]? = some 0x0D ∧ f[7 + p.length]? = some 0x0A

/-- The properties of the checksum that the rules rely on: R121 derives them from the fold of R120, and the source does not state them. -/
def Obligations.ChecksumAlgebra : Prop :=
  (∀ id p q, p.Perm q → xorFold id p = xorFold id q) ∧
  (∀ id, xorFold id [] = id) ∧
  (∀ id p q b, xorFold id (p ++ b :: b :: q) = xorFold id (p ++ q)) ∧
  (∀ id p m, xorFold (id ^^^ m) p = xorFold id p ^^^ m) ∧
  (∀ id p q b m, xorFold id (p ++ (b ^^^ m) :: q) = xorFold id (p ++ b :: q) ^^^ m) ∧
  (∀ id p q r b c m,
    xorFold id (p ++ (b ^^^ m) :: q ++ (c ^^^ m) :: r) = xorFold id (p ++ b :: q ++ c :: r))

/- ## The host bus -/

/-- R211, R73: RD of any register, in any state, gives the host the register's image and changes nothing of FSYNC. -/
def Obligations.ReadRegisterCompletes : Prop :=
  ∀ (r : Reg) (s : State), ∃ v : Word,
    exec (.rd (regOffset r)) s = .next { s with hostData := v } ∧ v.toNat = regImage r s

/-- R215: WR of the four RW registers while no operation runs; a one in a reserved bit is refused. -/
def Obligations.WriteRegisterCompletes : Prop :=
  ∀ (d : Word) (s : State), s.busy = false →
    exec (.wr 0x10 d) s = .next { s with syncMax := d } ∧
    exec (.wr 0x14 d) s = .next { s with ackMax := d } ∧
    exec (.wr 0x18 d) s =
      (if d.toNat < 2 ^ 8 then .next { s with txId := BitVec.ofNat 8 d.toNat }
        else .refused (.reservedBits { s with refused := true })) ∧
    exec (.wr 0x1C d) s =
      (if d.toNat < 2 ^ 16 then .next { s with txLen := BitVec.ofNat 16 d.toNat }
        else .refused (.reservedBits { s with refused := true }))

/-- R213: a WR to CMD is the command that its data spells, in every state. -/
def Obligations.WriteToCmdIsTheCommand : Prop :=
  ∀ (w : Word) (s : State), exec (.wr 0 w) s = exec (decodeCmd w) s

/-- R214: RDB of a buffer byte gives it to the host if it is written and faults if it is not; nothing of FSYNC changes. -/
def Obligations.ReadBufferByteCompletes : Prop :=
  ∀ (a : BitVec 20) (b : Buf) (s : State), region a.toNat = .buf b →
    (∀ v, memRead s.mem a.toNat = some v →
      ∃ d : Word, exec (.rdb a) s = .next { s with hostData := d } ∧ d.toNat = v.toNat) ∧
    (memRead s.mem a.toNat = none →
      exec (.rdb a) s = .fault (.uninitRead { s with faulted := true }))

/-- R214: WRB writes a TXBUF byte and its mark while no operation runs, and changes nothing else; RXBUF and FRAMEBUF are read-only. -/
def Obligations.WriteBufferByteCompletes : Prop :=
  (∀ (a : BitVec 20) (v : Byte) (s : State), 0x10000 ≤ a.toNat → a.toNat ≤ 0x1FFFD →
    s.busy = false → ∃ m, exec (.wrb a v) s = .next { s with mem := m } ∧
      memRead m a.toNat = some v ∧ ∀ x, x ≠ a.toNat → memRead m x = memRead s.mem x) ∧
  (∀ (a : BitVec 20) (v : Byte) (s : State),
    (0x20000 ≤ a.toNat ∧ a.toNat ≤ 0x2FFFD) ∨ (0x40000 ≤ a.toNat ∧ a.toNat ≤ 0x50005) →
    exec (.wrb a v) s = .refused (.readOnly { s with refused := true }))

/-- R62, R64, R65, R210: reserved addresses are refused BAD_ADDRESS, and the wrong widths and offsets BAD_WIDTH. -/
def Obligations.OddAccessesAreRefused : Prop :=
  ∀ (a : BitVec 20) (d : Word) (v : Byte) (s : State),
    let badAddress : Host.Outcome State Fault Refusal := .refused (.badAddress { s with refused := true })
    let badWidth : Host.Outcome State Fault Refusal := .refused (.badWidth { s with refused := true })
    (region a.toNat = .reserved →
      exec (.rd a) s = badAddress ∧ exec (.wr a d) s = badAddress ∧
      exec (.rdb a) s = badAddress ∧ exec (.wrb a v) s = badAddress) ∧
    (a.toNat ≤ 0x47 → exec (.rdb a) s = badWidth ∧ exec (.wrb a v) s = badWidth) ∧
    (a.toNat ≤ 0x47 → a.toNat % 4 ≠ 0 → exec (.rd a) s = badWidth ∧ exec (.wr a d) s = badWidth) ∧
    (∀ b, region a.toNat = .buf b → exec (.rd a) s = badWidth ∧ exec (.wr a d) s = badWidth)

/-- R212: a WR to a read-only register is refused READ_ONLY, while an operation runs as well. -/
def Obligations.ReadOnlyRegistersRefuseWrites : Prop :=
  ∀ (r : Reg) (d : Word) (s : State),
    r ≠ .cmd → r ≠ .syncMax → r ≠ .ackMax → r ≠ .txId → r ≠ .txLen →
    exec (.wr (regOffset r) d) s = .refused (.readOnly { s with refused := true })

/-- R270: while an operation runs, no command, no write of a writable register and no write of TXBUF happens. -/
def Obligations.WritesAreRefusedWhileBusy : Prop :=
  ∀ s : State, s.busy = true →
    let busy : Host.Outcome State Fault Refusal := .refused (.busy { s with refused := true })
    exec .encode s = busy ∧ exec .recv s = busy ∧ exec .send s = busy ∧
    (∀ w, exec (.cmdReserved w) s = busy) ∧
    (∀ d, exec (.wr 0x00 d) s = busy ∧ exec (.wr 0x10 d) s = busy ∧ exec (.wr 0x14 d) s = busy ∧
      exec (.wr 0x18 d) s = busy ∧ exec (.wr 0x1C d) s = busy) ∧
    (∀ (a : BitVec 20) v, 0x10000 ≤ a.toNat → a.toNat ≤ 0x1FFFD → exec (.wrb a v) s = busy)

/-- R93: a reserved command word is refused, RESERVED_OPCODE before RESERVED_BITS, and neither changes a register. -/
def Obligations.ReservedCommandsAreRefused : Prop :=
  ∀ (w : Word) (s : State), (Instr.cmdReserved w).wellFormed = true → s.busy = false →
    (w.toNat % 16 = 0 ∨ 4 ≤ w.toNat % 16 →
      exec (.cmdReserved w) s = .refused (.reservedOpcode { s with refused := true })) ∧
    (1 ≤ w.toNat % 16 → w.toNat % 16 ≤ 3 →
      exec (.cmdReserved w) s = .refused (.reservedBits { s with refused := true }))

/-- R125: ENCODE and SEND with TX_LEN = 65535 are refused TX_LEN_OVERFLOW; RECV is not. -/
def Obligations.OverlongPayloadIsRefused : Prop :=
  ∀ s : State, s.busy = false → s.txLen.toNat = 65535 →
    exec .encode s = .refused (.txLenOverflow { s with refused := true }) ∧
    exec .send s = .refused (.txLenOverflow { s with refused := true }) ∧
    ∃ t, exec .recv s = .next t

/-- R219: a refusal of a well-formed instruction has the cause that the list gives, sets S.refused, and changes no register or buffer. -/
def Obligations.RefusalsAreTheListed : Prop :=
  ∀ (i : Instr) (s : State) (r : Refusal), i.wellFormed = true → exec i s = .refused r →
    refusalCause i s r ∧ r.left = some { s with refused := true }

/-- R242: the fault is a read of a byte nobody wrote, by RDB or as a payload byte of ENCODE or SEND, and it sets S.faulted. -/
def Obligations.FaultIsAnUnwrittenByte : Prop :=
  ∀ (i : Instr) (s : State) (f : Fault), exec i s = .fault f →
    faultCause i s ∧ ∃ t : State, f = .uninitRead t ∧ t.faulted = true

/-- R126: with a payload byte never written, ENCODE and SEND fault, after their command start. -/
def Obligations.UnwrittenPayloadFaults : Prop :=
  ∀ (s : State) (k : Nat), s.busy = false → s.txLen.toNat ≠ 65535 →
    k < s.txLen.toNat → memRead s.mem (0x10000 + k) = none →
    exec .encode s = .fault (.uninitRead { s with
      result := ⟨.none, false, 0⟩, lastDec := ⟨.none, false, 0⟩, attempts := 0, sess := .idle,
      op := .encode, busy := true, faulted := true }) ∧
    exec .send s = .fault (.uninitRead { s with
      result := ⟨.none, false, 0⟩, lastDec := ⟨.none, false, 0⟩, attempts := 0, sess := .idle,
      op := .send, busy := true, faulted := true })

/- ## The commands -/

/-- R127: ENCODE of a written payload ends in its command step, with the frame in FRAMEBUF and RESULT = OK; otherwise it is refused BUSY or TX_LEN_OVERFLOW, or faults. -/
def Obligations.EncodeCompletes : Prop :=
  ∀ s : State,
    (∀ p : List Byte, s.busy = false → s.dec = .idle → s.txLen.toNat ≠ 65535 →
      memReadBytes s.mem 0x10000 s.txLen.toNat = some p →
      exec .encode s = .next { s with
        op := .encode, sess := .idle, busy := false, result := ⟨.ok, false, 0⟩,
        lastDec := ⟨.none, false, 0⟩, attempts := 0, rxpend := false, txpend := false,
        frameLen := BitVec.ofNat 17 (s.txLen.toNat + 8),
        mem := memWriteBytes s.mem 0x40000 (encodeFrame s.txId p) }) ∧
    (s.busy = true → exec .encode s = .refused (.busy { s with refused := true })) ∧
    (s.busy = false → s.txLen.toNat = 65535 →
      exec .encode s = .refused (.txLenOverflow { s with refused := true })) ∧
    (s.busy = false → s.txLen.toNat ≠ 65535 →
      (∃ k, k < s.txLen.toNat ∧ memRead s.mem (0x10000 + k) = none) →
      ∃ t, exec .encode s = .fault (.uninitRead t))

/-- R170: RECV starts a decode and waits for a byte; with SYNC_MAX = 0 it ends SYNC_TIMEOUT in its command step. -/
def Obligations.RecvCompletes : Prop :=
  ∀ s : State, s.busy = false →
    let started := { s with
      op := .recv, sess := .idle, attempts := 0, rxId := 0, rxLenf := 0, rxCount := 0, ckCalc := 0,
      ckRcvd := 0, trl0 := 0, trl1 := 0, syncCnt := 0, syncDisc := 0, prev := 0, prevValid := false }
    exec .recv s = if s.syncMax = 0 then
      .next { started with
        busy := false, dec := .idle, result := ⟨.syncTimeout, false, 0⟩,
        lastDec := ⟨.syncTimeout, false, 0⟩, rxpend := false, txpend := false }
    else
      .next { started with
        busy := true, dec := .sync, result := ⟨.none, false, 0⟩, lastDec := ⟨.none, false, 0⟩,
        rxpend := true }

/-- R180: SEND of a written payload builds its frame, presents it to TXCH, and waits. -/
def Obligations.SendCompletes : Prop :=
  ∀ (s : State) (p : List Byte), s.busy = false → s.dec = .idle → s.txLen.toNat ≠ 65535 →
    memReadBytes s.mem 0x10000 s.txLen.toNat = some p →
    exec .send s = .next { s with
      op := .send, sess := .sending, busy := true, result := ⟨.none, false, 0⟩,
      lastDec := ⟨.none, false, 0⟩, attempts := 0, rxpend := false, txpend := true,
      frameLen := BitVec.ofNat 17 (s.txLen.toNat + 8),
      mem := memWriteBytes s.mem 0x40000 (encodeFrame s.txId p) }

/-- R126: what ENCODE and SEND store: the frame's byte j at FRAMEBUF[j], and no other byte of memory. -/
def Obligations.CommandsStoreOnlyTheFrame : Prop :=
  ∀ (i : Instr) (s t : State) (p : List Byte), i = .encode ∨ i = .send →
    memReadBytes s.mem 0x10000 s.txLen.toNat = some p → exec i s = .next t →
    (∀ j, j < s.txLen.toNat + 8 → memRead t.mem (0x40000 + j) = (encodeFrame s.txId p)[j]?) ∧
    ∀ a, a < 0x40000 ∨ 0x40000 + s.txLen.toNat + 8 ≤ a → memRead t.mem a = memRead s.mem a

/-- R73, R142, R188 to R190, R215: the instructions that store nothing leave every byte of memory as it was. -/
def Obligations.OthersStoreNothing : Prop :=
  ∀ (i : Instr) (s t : State), exec i s = .next t →
    (i = .recv ∨ (∃ a, i = .rd a) ∨ (∃ a d, i = .wr a d ∧ a ≠ 0) ∨ (∃ a, i = .rdb a) ∨
      i = .nackMatch ∨ i = .ackMatch ∨ ∃ id m, i = .unrelated id m) →
    ∀ a, memRead t.mem a = memRead s.mem a

/-- R48, R215: no operation writes SYNC_MAX, ACK_MAX, TX_ID or TX_LEN, and the block never writes TXBUF. -/
def Obligations.OperationsKeepTheirOperands : Prop :=
  ∀ s t : State, step s = .next t →
    (∀ rest, s.sched ≠ .reset :: rest) →
    (∀ rest r rs, s.sched = .host :: rest → s.hostQ = r :: rs →
      (∀ a d, decodeHost r = .wr a d → a = 0) ∧ ∀ a v, decodeHost r ≠ .wrb a v) →
    t.syncMax = s.syncMax ∧ t.ackMax = s.ackMax ∧ t.txId = s.txId ∧ t.txLen = s.txLen ∧
    ∀ a, 0x10000 ≤ a → a ≤ 0x1FFFD → memRead t.mem a = memRead s.mem a

/-- R188, R189: a matching NACK ends the session NACKED with COMMAND_REJECTED, a matching ACK ends it ACKED with OK, whatever ACK_MAX is. -/
def Obligations.MatchingRepliesEndTheSession : Prop :=
  ∀ s : State, s.dec = .idle →
    exec .nackMatch s = .next { s with
      sess := .nacked, result := ⟨.commandRejected, false, 0⟩, busy := false, rxpend := false,
      txpend := false } ∧
    exec .ackMatch s = .next { s with
      sess := .acked, result := ⟨.ok, false, 0⟩, busy := false, rxpend := false, txpend := false }

/-- R184, R190: an unrelated reply keeps AWAITING_REPLY; the session is exhausted if no attempt is left, and starts its next attempt if one is.
With SYNC_MAX = 0 every attempt that is left ends SYNC_TIMEOUT in the same step, and the session is exhausted with ATTEMPTS = ACK_MAX (R143, R184; R244 and R263 say it, and the spec marks both as derived). -/
def Obligations.UnrelatedReplyConsumesAnAttempt : Prop :=
  ∀ (id : Byte) (m : Bool) (s : State),
    s.busy = true → s.op = .send → s.sess = .awaitingReply → s.dec = .idle →
    let fresh := { s with
      rxId := 0, rxLenf := 0, rxCount := 0, ckCalc := 0, ckRcvd := 0, trl0 := 0, trl1 := 0,
      syncCnt := 0, syncDisc := 0, prev := 0, prevValid := false }
    exec (.unrelated id m) s =
      if s.ackMax ≤ s.attempts then
        .next { s with sess := .exhausted, result := ⟨.ackTimeout, false, 0⟩, busy := false,
                       rxpend := false, txpend := false }
      else if s.syncMax = 0 then
        .next { fresh with
          sess := .exhausted, result := ⟨.ackTimeout, false, 0⟩, busy := false, rxpend := false,
          txpend := false, attempts := s.ackMax, lastDec := ⟨.syncTimeout, false, 0⟩ }
      else
        .next { fresh with attempts := s.attempts + 1, dec := .sync, rxpend := true }

/- ## Settle and the agents' turns -/

/-- R9: Settle stops where no input-free transition applies, and then a byte request is outstanding exactly when a decode runs. -/
def Obligations.SettleComesToRest : Prop :=
  ∀ s : State, settleStep (settle s) = none ∧
    ((settle s).rxpend = true ↔ (settle s).dec ≠ .idle)

/-- The host's turn runs the instruction that its next access decodes to, in the state with that turn and that access taken. -/
def Obligations.HostTurnRunsTheDecodedInstruction : Prop :=
  ∀ (s : State) (r : HostReq) (rest : List Agent) (rs : List HostReq),
    s.sched = .host :: rest → s.hostQ = r :: rs →
    step s = exec (decodeHost r) { s with sched := rest, hostQ := rs }

/-- R187: inside SEND, a decode that ends OK runs the reply class of its frame as an instruction, in the state that the decode left. -/
def Obligations.DecodedReplyRunsItsClass : Prop :=
  ∀ (s : State) (rest : List Agent) (es : List RxEvent),
    rxAnswers s (.byte 0x0A) rest es → s.dec = .trailer1 → s.trl0 = 0x0D → s.op = .send →
    let u := { s with sched := rest, rxQ := es, rxpend := false, trl1 := 0x0A,
                      lastDec := ⟨.ok, false, 0⟩, dec := .idle }
    step s = exec (decodeReply (replyKey u)) u

/-- R68, R254: an agent that has nothing to do leaves the machine as it was: no answer is given without a request, and a request without an answer waits. -/
def Obligations.WaitingChangesNothing : Prop :=
  (∀ s : State, s.sched = [] → step s = .next s) ∧
  (∀ (s : State) rest, s.sched = .host :: rest → s.hostQ = [] → step s = .next { s with sched := rest }) ∧
  (∀ (s : State) rest, s.sched = .rxch :: rest → s.rxpend = false ∨ s.rxQ = [] →
    step s = .next { s with sched := rest }) ∧
  (∀ (s : State) rest, s.sched = .txch :: rest → s.txpend = false ∨ s.txQ = [] →
    step s = .next { s with sched := rest })

/-- The value that RESET gives to every piece of state, and the value it has at the start of a run: R262 gathers them from R260. -/
def Obligations.ResetValues : Prop :=
  ∀ s t : State, t = resetInput s ∨ t = .reset →
    (∀ r, regImage r t = 0) ∧ t.sess = .idle ∧ t.dec = .idle ∧ t.result.code = .none ∧
    t.lastDec.code = .none ∧ t.prevValid = false ∧ t.rxpend = false ∧ t.txpend = false ∧
    (∀ (a : BitVec 20) b, region a.toNat = .buf b →
      exec (.rdb a) t = .fault (.uninitRead { t with faulted := true })) ∧
    (t = resetInput s → t.refused = s.refused ∧ t.faulted = s.faulted) ∧
    State.reset.refused = false ∧ State.reset.faulted = false

/-- R260: RESET, in any state, zeroes every register, clears every mark and abandons the requests; the channel, the host and the flags of the run stay as they are. -/
def Obligations.ResetClearsEverything : Prop :=
  ∀ (s : State) (rest : List Agent), s.sched = .reset :: rest → ∃ t, step s = .next t ∧
    (∀ r, regImage r t = 0) ∧ (∀ a, memRead t.mem a = none) ∧ t.rxpend = false ∧ t.txpend = false ∧
    t.refused = s.refused ∧ t.faulted = s.faulted ∧ t.sched = rest ∧ t.hostQ = s.hostQ ∧
    t.rxQ = s.rxQ ∧ t.txQ = s.txQ ∧ t.txSent = s.txSent ∧ t.hostData = s.hostData

/-- R144: the scanner consumes a byte: it counts it and keeps it as the previous byte, and the byte 0xA1 after 0xA0 ends the scan.
Otherwise Settle runs the budget check (R143), which does nothing while the budget lasts. -/
def Obligations.ScannerConsumesAByte : Prop :=
  ∀ (s : State) (b : Byte) (rest : List Agent) (es : List RxEvent),
    rxAnswers s (.byte b) rest es → s.dec = .sync → s.syncCnt < s.syncMax →
    let u := { s with sched := rest, rxQ := es, syncCnt := s.syncCnt + 1, prev := b, prevValid := true }
    (s.prevValid = true ∧ s.prev = 0xA0 ∧ b = 0xA1 →
      step s = .next { u with syncDisc := s.syncCnt - 1, dec := .lenHi }) ∧
    (¬ (s.prevValid = true ∧ s.prev = 0xA0 ∧ b = 0xA1) →
      let v := { u with rxpend := false }
      step s = .next (settle v) ∧ (s.syncCnt.toNat + 1 < s.syncMax.toNat → settle v = u))

/-- R148, R149, R156: LEN_HI, LEN_LO and TRAILER0 keep their byte in its field and go to the next phase. -/
def Obligations.PlainPhasesKeepTheirByte : Prop :=
  ∀ (s : State) (b : Byte) (rest : List Agent) (es : List RxEvent), rxAnswers s (.byte b) rest es →
    (s.dec = .lenHi → ∃ v : BitVec 16, v.toNat = b.toNat * 256 + s.rxLenf.toNat % 256 ∧
      step s = .next { s with sched := rest, rxQ := es, rxLenf := v, dec := .lenLo }) ∧
    (s.dec = .lenLo → ∃ v : BitVec 16, v.toNat = s.rxLenf.toNat / 256 * 256 + b.toNat ∧
      step s = .next { s with sched := rest, rxQ := es, rxLenf := v, dec := .msgId }) ∧
    (s.dec = .trailer0 →
      step s = .next { s with sched := rest, rxQ := es, trl0 := b, dec := .trailer1 })

/-- R151: the id byte starts the running checksum; a frame without payload goes to its checksum, one with payload to its payload, and payload_len = 0 ends the decode with INVALID_LENGTH. -/
def Obligations.IdByteStartsTheChecksum : Prop :=
  ∀ (s : State) (b : Byte) (rest : List Agent) (es : List RxEvent),
    rxAnswers s (.byte b) rest es → s.dec = .msgId →
    let u := { s with sched := rest, rxQ := es, rxId := b, ckCalc := b }
    (s.rxLenf.toNat ≠ 0 →
      step s = .next { u with dec := if s.rxLenf.toNat = 1 then .checksum else .payload }) ∧
    (s.rxLenf.toNat = 0 →
      step s = .next (settle (endDecode .invalidLength false 0 { u with rxpend := false }).1))

/-- R153: a payload byte goes to RXBUF[RX_COUNT] and into the running checksum; the last one ends the phase, and no other byte of memory changes. -/
def Obligations.PayloadByteIsStored : Prop :=
  ∀ (s : State) (b : Byte) (rest : List Agent) (es : List RxEvent),
    rxAnswers s (.byte b) rest es → s.dec = .payload → s.rxCount.toNat + 1 < s.rxLenf.toNat →
    ∃ m, memRead m (0x20000 + s.rxCount.toNat) = some b ∧
      (∀ a, a ≠ 0x20000 + s.rxCount.toNat → memRead m a = memRead s.mem a) ∧
      step s = .next { s with
        sched := rest, rxQ := es, mem := m, ckCalc := s.ckCalc ^^^ b, rxCount := s.rxCount + 1,
        dec := if s.rxCount.toNat + 2 = s.rxLenf.toNat then .checksum else .payload }

/-- R155: a checksum byte that agrees leads on to the trailer, and one that does not ends the decode with CHECKSUM_MISMATCH; the exact trailer ends a RECV with OK (R158). -/
def Obligations.CheckedFrameEndsRecvOk : Prop :=
  ∀ (s : State) (b : Byte) (rest : List Agent) (es : List RxEvent), rxAnswers s (.byte b) rest es →
    (s.dec = .checksum → b = s.ckCalc →
      step s = .next { s with sched := rest, rxQ := es, ckRcvd := b, dec := .trailer0 }) ∧
    (s.dec = .checksum → b ≠ s.ckCalc →
      step s = .next (settle (endDecode .checksumMismatch false 0
        { s with sched := rest, rxQ := es, ckRcvd := b, rxpend := false }).1)) ∧
    (s.dec = .trailer1 → s.trl0 = 0x0D → b = 0x0A → s.op = .recv →
      step s = .next { s with
        sched := rest, rxQ := es, trl1 := b, dec := .idle, lastDec := ⟨.ok, false, 0⟩,
        result := ⟨.ok, false, 0⟩, busy := false, rxpend := false, txpend := false })

/-- R141, R143, R146, R151, R155, R158, R241: an event that fails the decode ends a RECV with its outcome in RESULT and LAST_DEC. -/
def Obligations.FailedDecodeEndsRecv : Prop :=
  ∀ (s : State) (e : RxEvent) (rest : List Agent) (es : List RxEvent) (o : ResultReg),
    rxAnswers s e rest es → s.dec ≠ .idle → s.op = .recv →
    (s.dec = .sync → s.syncCnt < s.syncMax) → decodeFailure e s = some o →
    ∃ t, step s = .next t ∧ t.result = o ∧ t.lastDec = o ∧ t.busy = false ∧ t.dec = .idle ∧
      t.sess = s.sess ∧ t.rxpend = false ∧ t.rxQ = es ∧ t.mem = s.mem ∧
      t.rxLenf = s.rxLenf ∧ t.rxCount = s.rxCount ∧
      (s.dec = .sync → t.syncDisc = t.syncCnt) ∧ (s.dec ≠ .sync → t.syncDisc = s.syncDisc)

/-- R185, R186: inside SEND, a fatal channel error fails the session. -/
def Obligations.FatalErrorFailsTheSession : Prop :=
  ∀ (s : State) (rest : List Agent) (es : List RxEvent),
    rxAnswers s .fatal rest es → s.dec ≠ .idle → s.op = .send →
    ∃ t, step s = .next t ∧ t.sess = .failed ∧ t.busy = false ∧ t.dec = .idle ∧
      t.result = ⟨.channelError, true, phaseNum s.dec⟩ ∧
      t.lastDec = ⟨.channelError, true, phaseNum s.dec⟩ ∧ t.attempts = s.attempts

/-- R184, R186, R241: inside SEND, a failed decode that is not fatal consumes its attempt: the next one starts, or the session is exhausted.
A decode past the budget check has SYNC_MAX above 0 (`EveryStepKeepsTheParser`). -/
def Obligations.RecoverableFailureConsumesAnAttempt : Prop :=
  ∀ (s : State) (e : RxEvent) (rest : List Agent) (es : List RxEvent) (o : ResultReg),
    rxAnswers s e rest es → s.dec ≠ .idle → s.busy = true → s.op = .send →
    s.sess = .awaitingReply → 0 < s.syncMax.toNat → (s.dec = .sync → s.syncCnt < s.syncMax) →
    decodeFailure e s = some o → o.chFatal = false →
    ∃ t, step s = .next t ∧ t.lastDec = o ∧ t.rxQ = es ∧ t.mem = s.mem ∧
      (s.attempts < s.ackMax →
        t.sess = .awaitingReply ∧ t.busy = true ∧ t.dec = .sync ∧ t.syncCnt = 0 ∧
        t.prevValid = false ∧ t.attempts = s.attempts + 1 ∧ t.result = s.result) ∧
      (s.ackMax ≤ s.attempts →
        t.sess = .exhausted ∧ t.busy = false ∧ t.dec = .idle ∧ t.attempts = s.attempts ∧
        t.result = ⟨.ackTimeout, false, 0⟩)

/-- R181: a write error fails the session at once. -/
def Obligations.WriteErrorFailsTheSession : Prop :=
  ∀ (s : State) (rest : List Agent) (as : List TxAnswer),
    txAnswers s .writeErr rest as → s.dec = .idle →
    step s = .next { s with
      sched := rest, txQ := as, txpend := false, rxpend := false, sess := .failed, busy := false,
      result := ⟨.channelError, true, 15⟩ }

/-- R70, R182, R184: after WriteOk the frame is on the channel and the first attempt starts; with ACK_MAX = 0 the session is exhausted at once.
With SYNC_MAX = 0 every attempt ends SYNC_TIMEOUT in the same step, and the session is exhausted with ATTEMPTS = ACK_MAX (R244, R263). -/
def Obligations.WriteOkStartsTheWait : Prop :=
  ∀ (s : State) (f : List Byte) (rest : List Agent) (as : List TxAnswer),
    txAnswers s .writeOk rest as → s.dec = .idle → s.busy = true → s.sess = .sending →
    s.op = .send → s.attempts = 0 → memReadBytes s.mem 0x40000 s.frameLen.toNat = some f →
    ∃ t, step s = .next t ∧ t.txSent = s.txSent ++ [f] ∧ t.txpend = false ∧ t.mem = s.mem ∧
      (s.ackMax.toNat = 0 → t.sess = .exhausted ∧ t.busy = false ∧ t.attempts = 0 ∧
        t.result = ⟨.ackTimeout, false, 0⟩ ∧ t.lastDec = s.lastDec ∧ t.dec = .idle) ∧
      (0 < s.ackMax.toNat → 0 < s.syncMax.toNat → t.sess = .awaitingReply ∧ t.busy = true ∧
        t.attempts = 1 ∧ t.dec = .sync ∧ t.rxpend = true ∧ t.syncCnt = 0) ∧
      (0 < s.ackMax.toNat → s.syncMax.toNat = 0 → t.sess = .exhausted ∧ t.busy = false ∧
        t.attempts = s.ackMax ∧ t.result = ⟨.ackTimeout, false, 0⟩ ∧
        t.lastDec = ⟨.syncTimeout, false, 0⟩ ∧ t.dec = .idle ∧ t.rxpend = false)

/- ## Invariants and whole-machine rules -/

/-- R53, R260: the reset state meets the invariants. -/
def Obligations.ResetMeetsTheInvariants : Prop :=
  ControlInv .reset ∧ ParserInv .reset ∧ ChecksumInv .reset ∧ MemoryInv .reset ∧ FrameInv .reset

/-- R24, R26, R27, R46, R240: every step keeps the control invariant. -/
def Obligations.EveryStepKeepsControl : Prop :=
  ∀ s t : State, ControlInv s → step s = .next t → ControlInv t

/-- R41, R44, R52: every step keeps the parser's bounds and what each phase knows. -/
def Obligations.EveryStepKeepsTheParser : Prop :=
  ∀ s t : State, ControlInv s → ParserInv s → step s = .next t → ParserInv t

/-- R154: every step keeps the running checksum equal to the fold of the id and the payload bytes in RXBUF. -/
def Obligations.EveryStepKeepsTheChecksum : Prop :=
  ∀ s t : State, ControlInv s → ParserInv s → ChecksumInv s → step s = .next t → ChecksumInv t

/-- Every step keeps memory in canonical form and inside the three buffers of R61.
That the written bytes are a list, and its canonical form (addresses strictly rising, none twice), are the model's own choice (log entry 11, DESIGN CHOICE); of R61 is only that nothing outside the buffers holds a byte. -/
def Obligations.EveryStepKeepsMemory : Prop :=
  ∀ s t : State, ControlInv s → ParserInv s → MemoryInv s → step s = .next t → MemoryInv t

/-- R51, R126: every step keeps FRAMEBUF[0..FRAME_LEN-1] written, and a frame presented to TXCH equal to the frame of the command's operands. -/
def Obligations.EveryStepKeepsTheFrame : Prop :=
  ∀ s t : State, ControlInv s → ParserInv s → FrameInv s → step s = .next t → FrameInv t

/-- R191: a step other than RESET takes only the session transitions of the table. -/
def Obligations.SessionTransitionsAreTheListed : Prop :=
  ∀ s t : State, ControlInv s → step s = .next t → (∀ rest, s.sched ≠ .reset :: rest) →
    sessMayFollow s t

/-- R193: the step that ends a SEND leaves the attempt counter as the counting laws say. -/
def Obligations.AttemptsAreCounted : Prop :=
  ∀ s t : State, ControlInv s → ParserInv s → step s = .next t →
    s.sess.terminal = false → s.busy = true → s.sess ≠ t.sess →
    (t.sess = .exhausted → t.attempts = t.ackMax) ∧
    (t.sess = .acked ∨ t.sess = .nacked → 1 ≤ t.attempts.toNat ∧ t.attempts ≤ t.ackMax) ∧
    (t.sess = .failed → (s.sess = .sending ∧ t.attempts = 0) ∨
      (s.sess = .awaitingReply ∧ 1 ≤ t.attempts.toNat ∧ t.attempts ≤ t.ackMax))

/-- R183, R193: the channel is written only by a WriteOk in SENDING, and then once, with the frame of TX_ID and TXBUF. -/
def Obligations.ChannelIsWrittenOncePerSend : Prop :=
  ∀ s t : State, ControlInv s → FrameInv s → step s = .next t →
    (t.txSent = s.txSent ∧ ∀ rest as, s.sess = .sending → ¬ txAnswers s .writeOk rest as) ∨
    (s.sess = .sending ∧ t.sess ≠ .sending ∧ ∃ rest as p, txAnswers s .writeOk rest as ∧
      txPayload s = some p ∧ t.txSent = s.txSent ++ [encodeFrame s.txId p])

/-- R282: an ENCODE ends in its command step; RECV and SEND start with at most the answers of their bound to come; every answered request brings a running operation nearer to its end, and no other step takes it further away; with no answer to come it has ended. -/
def Obligations.OperationsEndWithinTheirBound : Prop :=
  (∀ s t : State, s.dec = .idle → exec .encode s = .next t → t.busy = false) ∧
  (∀ s t : State, exec .recv s = .next t → answersLeft t ≤ s.syncMax.toNat + 65540) ∧
  (∀ s t : State, s.dec = .idle → exec .send s = .next t →
    answersLeft t ≤ 1 + s.ackMax.toNat * (s.syncMax.toNat + 65540)) ∧
  (∀ s t : State, ControlInv s → ParserInv s → step s = .next t →
    ((∃ e rest es, rxAnswers s e rest es) ∨ (∃ a rest as, txAnswers s a rest as) →
      answersLeft t < answersLeft s) ∧
    (s.busy = true → answersLeft t ≤ answersLeft s) ∧
    (answersLeft t = 0 → t.busy = false))

/-- R171 (1, 2), R159: RECV decodes a frame behind noise without a marker, if the budget covers the noise and the marker; the bytes after the frame stay in the channel. -/
def Obligations.RecvDecodesAFrameBehindNoise : Prop :=
  ∀ (s : State) (id : Byte) (p z : List Byte), p.length ≤ 65534 → noMarker z = true →
    z.length + 2 ≤ s.syncMax.toNat → recvThenBytes (z ++ encodeFrame id p) s →
    ∃ t, Host.Core.run Sys2Proof.core (1 + (z ++ encodeFrame id p).length) s = .next t ∧
      t.busy = false ∧ t.result = ⟨.ok, false, 0⟩ ∧ t.lastDec = ⟨.ok, false, 0⟩ ∧ t.rxId = id ∧
      t.rxCount.toNat = p.length ∧ memReadBytes t.mem 0x20000 p.length = some p ∧
      t.syncDisc.toNat = z.length ∧
      s.rxQ = (z ++ encodeFrame id p).map .byte ++ t.rxQ

/-- R171 (3): SYNC_MAX bytes without a marker end a RECV with SYNC_TIMEOUT. -/
def Obligations.RecvGivesUpWithoutAMarker : Prop :=
  ∀ (s : State) (z : List Byte), noMarker z = true → z.length = s.syncMax.toNat →
    recvThenBytes z s →
    ∃ t, Host.Core.run Sys2Proof.core (1 + z.length) s = .next t ∧
      t.busy = false ∧ t.result = ⟨.syncTimeout, false, 0⟩ ∧
      t.syncCnt = s.syncMax ∧ t.syncDisc = s.syncMax ∧ s.rxQ = z.map .byte ++ t.rxQ

/-- R171 (4, 5), R155, R158: a frame with a wrong checksum byte or trailer ends a RECV with the matching failure, and a wrong checksum leaves the trailer in the channel. -/
def Obligations.RecvRejectsACorruptedFrame : Prop :=
  ∀ (s : State) (id ck t0 t1 : Byte) (p : List Byte), p.length ≤ 65534 → 2 ≤ s.syncMax.toNat →
    let head := (encodeFrame id p).take (p.length + 5)
    (ck ≠ xorFold id p → recvThenBytes (head ++ [ck]) s →
      ∃ t, Host.Core.run Sys2Proof.core (p.length + 7) s = .next t ∧ t.busy = false ∧
        t.result = ⟨.checksumMismatch, false, 0⟩ ∧ t.ckRcvd = ck ∧ t.ckCalc = xorFold id p ∧
        s.rxQ = (head ++ [ck]).map .byte ++ t.rxQ) ∧
    (ck = xorFold id p → ¬ (t0 = 0x0D ∧ t1 = 0x0A) → recvThenBytes (head ++ [ck, t0, t1]) s →
      ∃ t, Host.Core.run Sys2Proof.core (p.length + 9) s = .next t ∧ t.busy = false ∧
        t.result = ⟨.invalidTrailer, false, 0⟩ ∧ t.trl0 = t0 ∧ t.trl1 = t1)
end

