-- ==== Sys2Proof/Laws/State.lean ====
section
/-! SUPPORT. One lemma per field per shared update of the state: the command start (R92), the end of an operation (R231), the decode start (R142) and RESET (R260). -/

namespace Sys2Proof.Machine

@[simp] theorem commandStart_syncMax (o : OpCode) (s : State) : (commandStart o s).syncMax = s.syncMax := rfl
@[simp] theorem commandStart_ackMax (o : OpCode) (s : State) : (commandStart o s).ackMax = s.ackMax := rfl
@[simp] theorem commandStart_txId (o : OpCode) (s : State) : (commandStart o s).txId = s.txId := rfl
@[simp] theorem commandStart_txLen (o : OpCode) (s : State) : (commandStart o s).txLen = s.txLen := rfl
@[simp] theorem commandStart_busy (o : OpCode) (s : State) : (commandStart o s).busy = true := rfl
@[simp] theorem commandStart_op (o : OpCode) (s : State) : (commandStart o s).op = o := rfl
@[simp] theorem commandStart_sess (o : OpCode) (s : State) : (commandStart o s).sess = .idle := rfl
@[simp] theorem commandStart_dec (o : OpCode) (s : State) : (commandStart o s).dec = s.dec := rfl
@[simp] theorem commandStart_result (o : OpCode) (s : State) : (commandStart o s).result = .zero := rfl
@[simp] theorem commandStart_lastDec (o : OpCode) (s : State) : (commandStart o s).lastDec = .zero := rfl
@[simp] theorem commandStart_rxId (o : OpCode) (s : State) : (commandStart o s).rxId = s.rxId := rfl
@[simp] theorem commandStart_rxLenf (o : OpCode) (s : State) : (commandStart o s).rxLenf = s.rxLenf := rfl
@[simp] theorem commandStart_rxCount (o : OpCode) (s : State) : (commandStart o s).rxCount = s.rxCount := rfl
@[simp] theorem commandStart_ckCalc (o : OpCode) (s : State) : (commandStart o s).ckCalc = s.ckCalc := rfl
@[simp] theorem commandStart_ckRcvd (o : OpCode) (s : State) : (commandStart o s).ckRcvd = s.ckRcvd := rfl
@[simp] theorem commandStart_trl0 (o : OpCode) (s : State) : (commandStart o s).trl0 = s.trl0 := rfl
@[simp] theorem commandStart_trl1 (o : OpCode) (s : State) : (commandStart o s).trl1 = s.trl1 := rfl
@[simp] theorem commandStart_syncCnt (o : OpCode) (s : State) : (commandStart o s).syncCnt = s.syncCnt := rfl
@[simp] theorem commandStart_syncDisc (o : OpCode) (s : State) : (commandStart o s).syncDisc = s.syncDisc := rfl
@[simp] theorem commandStart_prev (o : OpCode) (s : State) : (commandStart o s).prev = s.prev := rfl
@[simp] theorem commandStart_prevValid (o : OpCode) (s : State) : (commandStart o s).prevValid = s.prevValid := rfl
@[simp] theorem commandStart_attempts (o : OpCode) (s : State) : (commandStart o s).attempts = 0 := rfl
@[simp] theorem commandStart_frameLen (o : OpCode) (s : State) : (commandStart o s).frameLen = s.frameLen := rfl
@[simp] theorem commandStart_rxpend (o : OpCode) (s : State) : (commandStart o s).rxpend = s.rxpend := rfl
@[simp] theorem commandStart_txpend (o : OpCode) (s : State) : (commandStart o s).txpend = s.txpend := rfl
@[simp] theorem commandStart_refused (o : OpCode) (s : State) : (commandStart o s).refused = s.refused := rfl
@[simp] theorem commandStart_faulted (o : OpCode) (s : State) : (commandStart o s).faulted = s.faulted := rfl
@[simp] theorem commandStart_mem (o : OpCode) (s : State) : (commandStart o s).mem = s.mem := rfl
@[simp] theorem commandStart_sched (o : OpCode) (s : State) : (commandStart o s).sched = s.sched := rfl
@[simp] theorem commandStart_hostQ (o : OpCode) (s : State) : (commandStart o s).hostQ = s.hostQ := rfl
@[simp] theorem commandStart_rxQ (o : OpCode) (s : State) : (commandStart o s).rxQ = s.rxQ := rfl
@[simp] theorem commandStart_txQ (o : OpCode) (s : State) : (commandStart o s).txQ = s.txQ := rfl
@[simp] theorem commandStart_txSent (o : OpCode) (s : State) : (commandStart o s).txSent = s.txSent := rfl
@[simp] theorem commandStart_hostData (o : OpCode) (s : State) : (commandStart o s).hostData = s.hostData := rfl

@[simp] theorem finish_syncMax (c : Code) (f : Bool) (p : BitVec 4) (s : State) : (finish c f p s).syncMax = s.syncMax := rfl
@[simp] theorem finish_ackMax (c : Code) (f : Bool) (p : BitVec 4) (s : State) : (finish c f p s).ackMax = s.ackMax := rfl
@[simp] theorem finish_txId (c : Code) (f : Bool) (p : BitVec 4) (s : State) : (finish c f p s).txId = s.txId := rfl
@[simp] theorem finish_txLen (c : Code) (f : Bool) (p : BitVec 4) (s : State) : (finish c f p s).txLen = s.txLen := rfl
@[simp] theorem finish_busy (c : Code) (f : Bool) (p : BitVec 4) (s : State) : (finish c f p s).busy = false := rfl
@[simp] theorem finish_op (c : Code) (f : Bool) (p : BitVec 4) (s : State) : (finish c f p s).op = s.op := rfl
@[simp] theorem finish_sess (c : Code) (f : Bool) (p : BitVec 4) (s : State) : (finish c f p s).sess = s.sess := rfl
@[simp] theorem finish_dec (c : Code) (f : Bool) (p : BitVec 4) (s : State) : (finish c f p s).dec = s.dec := rfl
@[simp] theorem finish_result (c : Code) (f : Bool) (p : BitVec 4) (s : State) : (finish c f p s).result = ⟨c, f, p⟩ := rfl
@[simp] theorem finish_lastDec (c : Code) (f : Bool) (p : BitVec 4) (s : State) : (finish c f p s).lastDec = s.lastDec := rfl
@[simp] theorem finish_rxId (c : Code) (f : Bool) (p : BitVec 4) (s : State) : (finish c f p s).rxId = s.rxId := rfl
@[simp] theorem finish_rxLenf (c : Code) (f : Bool) (p : BitVec 4) (s : State) : (finish c f p s).rxLenf = s.rxLenf := rfl
@[simp] theorem finish_rxCount (c : Code) (f : Bool) (p : BitVec 4) (s : State) : (finish c f p s).rxCount = s.rxCount := rfl
@[simp] theorem finish_ckCalc (c : Code) (f : Bool) (p : BitVec 4) (s : State) : (finish c f p s).ckCalc = s.ckCalc := rfl
@[simp] theorem finish_ckRcvd (c : Code) (f : Bool) (p : BitVec 4) (s : State) : (finish c f p s).ckRcvd = s.ckRcvd := rfl
@[simp] theorem finish_trl0 (c : Code) (f : Bool) (p : BitVec 4) (s : State) : (finish c f p s).trl0 = s.trl0 := rfl
@[simp] theorem finish_trl1 (c : Code) (f : Bool) (p : BitVec 4) (s : State) : (finish c f p s).trl1 = s.trl1 := rfl
@[simp] theorem finish_syncCnt (c : Code) (f : Bool) (p : BitVec 4) (s : State) : (finish c f p s).syncCnt = s.syncCnt := rfl
@[simp] theorem finish_syncDisc (c : Code) (f : Bool) (p : BitVec 4) (s : State) : (finish c f p s).syncDisc = s.syncDisc := rfl
@[simp] theorem finish_prev (c : Code) (f : Bool) (p : BitVec 4) (s : State) : (finish c f p s).prev = s.prev := rfl
@[simp] theorem finish_prevValid (c : Code) (f : Bool) (p : BitVec 4) (s : State) : (finish c f p s).prevValid = s.prevValid := rfl
@[simp] theorem finish_attempts (c : Code) (f : Bool) (p : BitVec 4) (s : State) : (finish c f p s).attempts = s.attempts := rfl
@[simp] theorem finish_frameLen (c : Code) (f : Bool) (p : BitVec 4) (s : State) : (finish c f p s).frameLen = s.frameLen := rfl
@[simp] theorem finish_rxpend (c : Code) (f : Bool) (p : BitVec 4) (s : State) : (finish c f p s).rxpend = false := rfl
@[simp] theorem finish_txpend (c : Code) (f : Bool) (p : BitVec 4) (s : State) : (finish c f p s).txpend = false := rfl
@[simp] theorem finish_refused (c : Code) (f : Bool) (p : BitVec 4) (s : State) : (finish c f p s).refused = s.refused := rfl
@[simp] theorem finish_faulted (c : Code) (f : Bool) (p : BitVec 4) (s : State) : (finish c f p s).faulted = s.faulted := rfl
@[simp] theorem finish_mem (c : Code) (f : Bool) (p : BitVec 4) (s : State) : (finish c f p s).mem = s.mem := rfl
@[simp] theorem finish_sched (c : Code) (f : Bool) (p : BitVec 4) (s : State) : (finish c f p s).sched = s.sched := rfl
@[simp] theorem finish_hostQ (c : Code) (f : Bool) (p : BitVec 4) (s : State) : (finish c f p s).hostQ = s.hostQ := rfl
@[simp] theorem finish_rxQ (c : Code) (f : Bool) (p : BitVec 4) (s : State) : (finish c f p s).rxQ = s.rxQ := rfl
@[simp] theorem finish_txQ (c : Code) (f : Bool) (p : BitVec 4) (s : State) : (finish c f p s).txQ = s.txQ := rfl
@[simp] theorem finish_txSent (c : Code) (f : Bool) (p : BitVec 4) (s : State) : (finish c f p s).txSent = s.txSent := rfl
@[simp] theorem finish_hostData (c : Code) (f : Bool) (p : BitVec 4) (s : State) : (finish c f p s).hostData = s.hostData := rfl

@[simp] theorem decodeStart_syncMax (s : State) : (decodeStart s).syncMax = s.syncMax := rfl
@[simp] theorem decodeStart_ackMax (s : State) : (decodeStart s).ackMax = s.ackMax := rfl
@[simp] theorem decodeStart_txId (s : State) : (decodeStart s).txId = s.txId := rfl
@[simp] theorem decodeStart_txLen (s : State) : (decodeStart s).txLen = s.txLen := rfl
@[simp] theorem decodeStart_busy (s : State) : (decodeStart s).busy = s.busy := rfl
@[simp] theorem decodeStart_op (s : State) : (decodeStart s).op = s.op := rfl
@[simp] theorem decodeStart_sess (s : State) : (decodeStart s).sess = s.sess := rfl
@[simp] theorem decodeStart_dec (s : State) : (decodeStart s).dec = .sync := rfl
@[simp] theorem decodeStart_result (s : State) : (decodeStart s).result = s.result := rfl
@[simp] theorem decodeStart_lastDec (s : State) : (decodeStart s).lastDec = s.lastDec := rfl
@[simp] theorem decodeStart_rxId (s : State) : (decodeStart s).rxId = 0 := rfl
@[simp] theorem decodeStart_rxLenf (s : State) : (decodeStart s).rxLenf = 0 := rfl
@[simp] theorem decodeStart_rxCount (s : State) : (decodeStart s).rxCount = 0 := rfl
@[simp] theorem decodeStart_ckCalc (s : State) : (decodeStart s).ckCalc = 0 := rfl
@[simp] theorem decodeStart_ckRcvd (s : State) : (decodeStart s).ckRcvd = 0 := rfl
@[simp] theorem decodeStart_trl0 (s : State) : (decodeStart s).trl0 = 0 := rfl
@[simp] theorem decodeStart_trl1 (s : State) : (decodeStart s).trl1 = 0 := rfl
@[simp] theorem decodeStart_syncCnt (s : State) : (decodeStart s).syncCnt = 0 := rfl
@[simp] theorem decodeStart_syncDisc (s : State) : (decodeStart s).syncDisc = 0 := rfl
@[simp] theorem decodeStart_prev (s : State) : (decodeStart s).prev = 0 := rfl
@[simp] theorem decodeStart_prevValid (s : State) : (decodeStart s).prevValid = false := rfl
@[simp] theorem decodeStart_attempts (s : State) : (decodeStart s).attempts = s.attempts := rfl
@[simp] theorem decodeStart_frameLen (s : State) : (decodeStart s).frameLen = s.frameLen := rfl
@[simp] theorem decodeStart_rxpend (s : State) : (decodeStart s).rxpend = s.rxpend := rfl
@[simp] theorem decodeStart_txpend (s : State) : (decodeStart s).txpend = s.txpend := rfl
@[simp] theorem decodeStart_refused (s : State) : (decodeStart s).refused = s.refused := rfl
@[simp] theorem decodeStart_faulted (s : State) : (decodeStart s).faulted = s.faulted := rfl
@[simp] theorem decodeStart_mem (s : State) : (decodeStart s).mem = s.mem := rfl
@[simp] theorem decodeStart_sched (s : State) : (decodeStart s).sched = s.sched := rfl
@[simp] theorem decodeStart_hostQ (s : State) : (decodeStart s).hostQ = s.hostQ := rfl
@[simp] theorem decodeStart_rxQ (s : State) : (decodeStart s).rxQ = s.rxQ := rfl
@[simp] theorem decodeStart_txQ (s : State) : (decodeStart s).txQ = s.txQ := rfl
@[simp] theorem decodeStart_txSent (s : State) : (decodeStart s).txSent = s.txSent := rfl
@[simp] theorem decodeStart_hostData (s : State) : (decodeStart s).hostData = s.hostData := rfl

@[simp] theorem resetInput_syncMax (s : State) : (resetInput s).syncMax = State.reset.syncMax := rfl
@[simp] theorem resetInput_ackMax (s : State) : (resetInput s).ackMax = State.reset.ackMax := rfl
@[simp] theorem resetInput_txId (s : State) : (resetInput s).txId = State.reset.txId := rfl
@[simp] theorem resetInput_txLen (s : State) : (resetInput s).txLen = State.reset.txLen := rfl
@[simp] theorem resetInput_busy (s : State) : (resetInput s).busy = State.reset.busy := rfl
@[simp] theorem resetInput_op (s : State) : (resetInput s).op = State.reset.op := rfl
@[simp] theorem resetInput_sess (s : State) : (resetInput s).sess = State.reset.sess := rfl
@[simp] theorem resetInput_dec (s : State) : (resetInput s).dec = State.reset.dec := rfl
@[simp] theorem resetInput_result (s : State) : (resetInput s).result = State.reset.result := rfl
@[simp] theorem resetInput_lastDec (s : State) : (resetInput s).lastDec = State.reset.lastDec := rfl
@[simp] theorem resetInput_rxId (s : State) : (resetInput s).rxId = State.reset.rxId := rfl
@[simp] theorem resetInput_rxLenf (s : State) : (resetInput s).rxLenf = State.reset.rxLenf := rfl
@[simp] theorem resetInput_rxCount (s : State) : (resetInput s).rxCount = State.reset.rxCount := rfl
@[simp] theorem resetInput_ckCalc (s : State) : (resetInput s).ckCalc = State.reset.ckCalc := rfl
@[simp] theorem resetInput_ckRcvd (s : State) : (resetInput s).ckRcvd = State.reset.ckRcvd := rfl
@[simp] theorem resetInput_trl0 (s : State) : (resetInput s).trl0 = State.reset.trl0 := rfl
@[simp] theorem resetInput_trl1 (s : State) : (resetInput s).trl1 = State.reset.trl1 := rfl
@[simp] theorem resetInput_syncCnt (s : State) : (resetInput s).syncCnt = State.reset.syncCnt := rfl
@[simp] theorem resetInput_syncDisc (s : State) : (resetInput s).syncDisc = State.reset.syncDisc := rfl
@[simp] theorem resetInput_prev (s : State) : (resetInput s).prev = State.reset.prev := rfl
@[simp] theorem resetInput_prevValid (s : State) : (resetInput s).prevValid = State.reset.prevValid := rfl
@[simp] theorem resetInput_attempts (s : State) : (resetInput s).attempts = State.reset.attempts := rfl
@[simp] theorem resetInput_frameLen (s : State) : (resetInput s).frameLen = State.reset.frameLen := rfl
@[simp] theorem resetInput_rxpend (s : State) : (resetInput s).rxpend = State.reset.rxpend := rfl
@[simp] theorem resetInput_txpend (s : State) : (resetInput s).txpend = State.reset.txpend := rfl
@[simp] theorem resetInput_refused (s : State) : (resetInput s).refused = s.refused := rfl
@[simp] theorem resetInput_faulted (s : State) : (resetInput s).faulted = s.faulted := rfl
@[simp] theorem resetInput_mem (s : State) : (resetInput s).mem = State.reset.mem := rfl
@[simp] theorem resetInput_sched (s : State) : (resetInput s).sched = s.sched := rfl
@[simp] theorem resetInput_hostQ (s : State) : (resetInput s).hostQ = s.hostQ := rfl
@[simp] theorem resetInput_rxQ (s : State) : (resetInput s).rxQ = s.rxQ := rfl
@[simp] theorem resetInput_txQ (s : State) : (resetInput s).txQ = s.txQ := rfl
@[simp] theorem resetInput_txSent (s : State) : (resetInput s).txSent = s.txSent := rfl
@[simp] theorem resetInput_hostData (s : State) : (resetInput s).hostData = s.hostData := rfl

end Sys2Proof.Machine
end

