-- ==== Sys2Proof/Laws/Settle.lean ====
section
/-! SUPPORT. What a decode's end and Settle can do (R9, R141, R143, R184, R185): one case lemma for each, what they leave alone, and that Settle comes to rest. -/

namespace Sys2Proof.Machine

/-- What no decode's end and no transition of Settle changes. -/
structure SameOutside (s t : State) : Prop where
  syncMax : t.syncMax = s.syncMax
  ackMax : t.ackMax = s.ackMax
  txId : t.txId = s.txId
  txLen : t.txLen = s.txLen
  op : t.op = s.op
  frameLen : t.frameLen = s.frameLen
  refused : t.refused = s.refused
  faulted : t.faulted = s.faulted
  mem : t.mem = s.mem
  sched : t.sched = s.sched
  hostQ : t.hostQ = s.hostQ
  rxQ : t.rxQ = s.rxQ
  txQ : t.txQ = s.txQ
  txSent : t.txSent = s.txSent
  hostData : t.hostData = s.hostData

theorem SameOutside.refl (s : State) : SameOutside s s :=
  ⟨rfl, rfl, rfl, rfl, rfl, rfl, rfl, rfl, rfl, rfl, rfl, rfl, rfl, rfl, rfl⟩

theorem SameOutside.trans {s t u : State} (h : SameOutside s t) (k : SameOutside t u) :
    SameOutside s u :=
  ⟨k.1.trans h.1, k.2.trans h.2, k.3.trans h.3, k.4.trans h.4, k.5.trans h.5, k.6.trans h.6,
    k.7.trans h.7, k.8.trans h.8, k.9.trans h.9, k.10.trans h.10, k.11.trans h.11,
    k.12.trans h.12, k.13.trans h.13, k.14.trans h.14, k.15.trans h.15⟩

/-- The state in which a decode's end hands over (R141): the outcome in LAST_DEC, the decoder idle. -/
def ended (o : ResultReg) (s : State) : State := { s with lastDec := o, dec := .idle }

/-- How a decode can end (R141, R185): a RECV finishes, a fatal channel error fails the session, a frame goes on to its class, and any other failure only ends the decode. -/
theorem endDecode_cases (c : Code) (f : Bool) (p : BitVec 4) (s : State) :
    (s.op = .recv ∧ endDecode c f p s = (finish c f p (ended ⟨c, f, p⟩ s), none)) ∨
    (s.op ≠ .recv ∧ c = .channelError ∧ f = true ∧
      endDecode c f p s = (finish .channelError true p { ended ⟨c, f, p⟩ s with sess := .failed }, none)) ∨
    (s.op ≠ .recv ∧ c = .ok ∧
      endDecode c f p s = (ended ⟨c, f, p⟩ s, some (decodeReply (replyKey (ended ⟨c, f, p⟩ s))))) ∨
    (s.op ≠ .recv ∧ ¬ (c = .channelError ∧ f = true) ∧ c ≠ .ok ∧
      endDecode c f p s = (ended ⟨c, f, p⟩ s, none)) := by
  unfold endDecode sessionDecodeEnd ended
  by_cases ho : s.op = .recv
  · exact .inl ⟨ho, by simp [ho]⟩
  · by_cases hf : c = .channelError ∧ f = true
    · exact .inr (.inl ⟨ho, hf.1, hf.2, by simp [ho, hf]⟩)
    · by_cases hk : c = .ok
      · exact .inr (.inr (.inl ⟨ho, hk, by simp [ho, hk]⟩))
      · exact .inr (.inr (.inr ⟨ho, hf, hk, by simp [ho, hf, hk]⟩))

/-- A decode's end leaves everything outside the outcome alone. -/
theorem endDecode_same (c : Code) (f : Bool) (p : BitVec 4) (s : State) :
    SameOutside s (endDecode c f p s).1 := by
  rcases endDecode_cases c f p s with ⟨-, h⟩ | ⟨-, -, -, h⟩ | ⟨-, -, h⟩ | ⟨-, -, -, h⟩ <;> rw [h] <;>
    constructor <;> rfl

/-- After a decode's end the decoder is idle. -/
@[simp] theorem endDecode_dec (c : Code) (f : Bool) (p : BitVec 4) (s : State) :
    (endDecode c f p s).1.dec = .idle := by
  rcases endDecode_cases c f p s with ⟨-, h⟩ | ⟨-, -, -, h⟩ | ⟨-, -, h⟩ | ⟨-, -, -, h⟩ <;> rw [h] <;> rfl

/-- A decode's end leaves the attempt counter alone. -/
@[simp] theorem endDecode_attempts (c : Code) (f : Bool) (p : BitVec 4) (s : State) :
    (endDecode c f p s).1.attempts = s.attempts := by
  rcases endDecode_cases c f p s with ⟨-, h⟩ | ⟨-, -, -, h⟩ | ⟨-, -, h⟩ | ⟨-, -, -, h⟩ <;> rw [h] <;> rfl

theorem budgetSpent_iff (s : State) : budgetSpent s = true ↔ s.dec = .sync ∧ s.syncMax ≤ s.syncCnt := by
  simp [budgetSpent]

theorem betweenAttempts_iff (s : State) :
    betweenAttempts s = true ↔ s.busy = true ∧ s.sess = .awaitingReply ∧ s.dec = .idle := by
  simp [betweenAttempts, and_assoc]

/-- The input-free transitions (R143, R184): the scan that has used its budget ends, the session that has no attempt left is exhausted, or the next attempt starts. -/
theorem settleStep_cases {s t : State} (h : settleStep s = some t) :
    (s.dec = .sync ∧ s.syncMax ≤ s.syncCnt ∧ t = syncTimeoutAct s) ∨
    (s.busy = true ∧ s.sess = .awaitingReply ∧ s.dec = .idle ∧ s.ackMax ≤ s.attempts ∧
      t = finish .ackTimeout false 0 { s with sess := .exhausted }) ∨
    (s.busy = true ∧ s.sess = .awaitingReply ∧ s.dec = .idle ∧ s.attempts < s.ackMax ∧
      t = decodeStart { s with attempts := s.attempts + 1 }) := by
  unfold settleStep at h
  split at h
  · next hb =>
    obtain ⟨hd, hc⟩ := (budgetSpent_iff s).1 hb
    exact .inl ⟨hd, hc, (Option.some.inj h).symm⟩
  · split at h
    · next hb =>
      obtain ⟨h1, h2, h3⟩ := (betweenAttempts_iff s).1 hb
      have ht := (Option.some.inj h).symm
      unfold iterationAct at ht
      split at ht
      · next ha => exact .inr (.inl ⟨h1, h2, h3, ha, ht⟩)
      · next ha => exact .inr (.inr ⟨h1, h2, h3, BitVec.not_le.1 ha, ht⟩)
    · cases h

/-- Where no input-free transition applies (R9). -/
theorem settleStep_eq_none (s : State) :
    settleStep s = none ↔
      ¬ (s.dec = .sync ∧ s.syncMax ≤ s.syncCnt) ∧
      ¬ (s.busy = true ∧ s.sess = .awaitingReply ∧ s.dec = .idle) := by
  unfold settleStep
  split
  · next h => simp [(budgetSpent_iff s).1 h]
  · next h =>
    have hb : ¬ (s.dec = .sync ∧ s.syncMax ≤ s.syncCnt) := fun k => h ((budgetSpent_iff s).2 k)
    split
    · next h' => simp [(betweenAttempts_iff s).1 h']
    · next h' => exact ⟨fun _ => ⟨hb, fun k => h' ((betweenAttempts_iff s).2 k)⟩, fun _ => rfl⟩

/-- A transition of Settle leaves everything outside the session and the decoder alone. -/
theorem settleStep_same {s t : State} (h : settleStep s = some t) : SameOutside s t := by
  rcases settleStep_cases h with ⟨-, -, rfl⟩ | ⟨-, -, -, -, rfl⟩ | ⟨-, -, -, -, rfl⟩
  · exact SameOutside.trans (t := { s with syncDisc := s.syncCnt }) (by constructor <;> rfl)
      (endDecode_same ..)
  · constructor <;> rfl
  · constructor <;> rfl

/-- What every transition keeps, Settle keeps. -/
theorem settleLoop_induct (P : State → Prop) (hP : ∀ s t, P s → settleStep s = some t → P t) :
    ∀ (n : Nat) (s : State), P s → P (settleLoop n s)
  | 0, _, h => h
  | n + 1, s, h => by
    unfold settleLoop
    split
    · exact h
    · next t ht => exact settleLoop_induct P hP n t (hP s t h ht)

/-- Settle leaves everything outside the session and the decoder alone. -/
theorem settle_same (s : State) : SameOutside s (settle s) :=
  (settleLoop_induct (SameOutside s) (fun _ _ h k => h.trans (settleStep_same k)) _ s (.refl s)).trans
    ⟨rfl, rfl, rfl, rfl, rfl, rfl, rfl, rfl, rfl, rfl, rfl, rfl, rfl, rfl, rfl⟩

theorem settleLoop_of_none {s : State} (h : settleStep s = none) (n : Nat) : settleLoop n s = s := by
  cases n with
  | zero => rfl
  | succ n => simp [settleLoop, h]

theorem settleLoop_of_some {s t : State} (h : settleStep s = some t) (n : Nat) :
    settleLoop (n + 1) s = settleLoop n t := by simp [settleLoop, h]

/-- Where no transition applies, Settle only brings the byte request up to date. -/
theorem settle_of_rest {s : State} (h : settleStep s = none) :
    settle s = { s with rxpend := s.dec != .idle } := by
  unfold settle; rw [settleLoop_of_none h]

/-- A block that is not busy and has no scan running is at rest. -/
theorem settleStep_of_idle {s : State} (hb : s.busy = false) (hd : s.dec = .idle) :
    settleStep s = none := by
  rw [settleStep_eq_none, hb, hd]; simp

/-- Settle of a block that has ended its operation (R231). -/
theorem settle_of_idle {s : State} (hb : s.busy = false) (hd : s.dec = .idle) :
    settle s = { s with rxpend := false } := by
  rw [settle_of_rest (settleStep_of_idle hb hd), hd]; rfl

/-- A decode past its scan is at rest until its next byte. -/
theorem settleStep_of_phase {s : State} (hi : s.dec ≠ .idle) (hs : s.dec ≠ .sync) :
    settleStep s = none := by
  rw [settleStep_eq_none]; exact ⟨fun h => hs h.1, fun h => hi h.2.2⟩

/-- A scan with budget left is at rest until its next byte. -/
theorem settleStep_of_scan {s : State} (hs : s.dec = .sync) (hc : s.syncCnt < s.syncMax) :
    settleStep s = none := by
  rw [settleStep_eq_none, hs]
  exact ⟨fun h => BitVec.not_le.2 hc h.2, fun h => by cases h.2.2⟩

/-- Settle of a decode past its scan: its byte request is outstanding (R68). -/
theorem settle_of_phase {s : State} (hi : s.dec ≠ .idle) (hs : s.dec ≠ .sync) :
    settle s = { s with rxpend := true } := by
  rw [settle_of_rest (settleStep_of_phase hi hs), show (s.dec != .idle) = true by simpa using hi]

/-- Settle of a scan with budget left: its byte request is outstanding (R143). -/
theorem settle_of_scan {s : State} (hs : s.dec = .sync) (hc : s.syncCnt < s.syncMax) :
    settle s = { s with rxpend := true } := by
  rw [settle_of_rest (settleStep_of_scan hs hc), hs]; rfl

theorem settleLoop_at_rest (n : Nat) : ∀ s : State,
    (s.dec = .idle → 2 * (s.ackMax.toNat - s.attempts.toNat) + 1 ≤ n) →
    (s.dec ≠ .idle → 2 * (s.ackMax.toNat - s.attempts.toNat) + 2 ≤ n) →
    settleStep (settleLoop n s) = none := by
  induction n with
  | zero => intro s h1 h2; by_cases hd : s.dec = .idle <;> simp_all
  | succ n ih =>
    intro s h1 h2
    cases hs : settleStep s with
    | none => rw [settleLoop_of_none hs, hs]
    | some t =>
      rw [settleLoop_of_some hs]
      rcases settleStep_cases hs with ⟨hd, -, rfl⟩ | ⟨-, -, hd, -, rfl⟩ | ⟨-, -, hd, ha, rfl⟩
      · refine ih _ (fun _ => ?_) (fun h => absurd (endDecode_dec ..) h)
        have h := h2 (by simp [hd])
        have ha : (syncTimeoutAct s).attempts = s.attempts := endDecode_attempts ..
        rw [(settleStep_same hs).ackMax, ha]
        omega
      · have hr := settleStep_of_idle (s := finish .ackTimeout false 0 { s with sess := .exhausted }) rfl hd
        rw [settleLoop_of_none hr, hr]
      · refine ih _ (fun h => by cases h) (fun _ => ?_)
        have := h1 hd
        have ha' := BitVec.lt_def.1 ha
        have hm := s.ackMax.isLt
        have : (s.attempts + 1).toNat = s.attempts.toNat + 1 := by
          rw [BitVec.toNat_add]; simp; omega
        simp only [decodeStart_ackMax, decodeStart_attempts]
        omega

/-- Settle has enough transitions to come to rest. -/
theorem settleLoop_rest (s : State) : settleStep (settleLoop (settleFuel s) s) = none :=
  settleLoop_at_rest _ s (fun _ => by unfold settleFuel; omega) (fun _ => by unfold settleFuel; omega)

/-- Settle is settled by its first transition, if there is one. -/
theorem settleLoop_stable {s : State} {n : Nat} (h : settleStep (settleLoop n s) = none) (k : Nat) :
    settleLoop (n + k) s = settleLoop n s := by
  induction n generalizing s with
  | zero => rw [Nat.zero_add]; exact settleLoop_of_none h k
  | succ n ih =>
    cases hs : settleStep s with
    | none => rw [settleLoop_of_none hs, settleLoop_of_none hs]
    | some t =>
      rw [settleLoop_of_some hs] at h
      rw [show n + 1 + k = n + k + 1 by omega, settleLoop_of_some hs, settleLoop_of_some hs, ih h]

/-- Two loops that both came to rest came to the same state. -/
theorem settleLoop_unique {s : State} {n k : Nat} (hn : settleStep (settleLoop n s) = none)
    (hk : settleStep (settleLoop k s) = none) : settleLoop n s = settleLoop k s := by
  rcases Nat.le_total n k with h | h
  · rw [← settleLoop_stable hn (k - n), Nat.add_sub_cancel' h]
  · rw [← settleLoop_stable hk (n - k), Nat.add_sub_cancel' h]

/-- Settle after a first transition. -/
theorem settle_of_some {s t : State} (h : settleStep s = some t) : settle s = settle t := by
  have hs := settleLoop_rest s
  have ht := settleLoop_rest t
  have : settleLoop (settleFuel s) s = settleLoop (settleFuel t) t := by
    have h1 : settleLoop (settleFuel t + 1) s = settleLoop (settleFuel t) t := settleLoop_of_some h _
    rw [← h1]; rw [← h1] at ht
    exact settleLoop_unique hs ht
  unfold settle; rw [this]

/-- A counter below its bound goes up by one without wrapping (R52). -/
theorem toNat_succ_of_lt {a m : BitVec 32} (h : a < m) : (a + 1).toNat = a.toNat + 1 := by
  have hm := m.isLt
  have ha := BitVec.lt_def.1 h
  rw [BitVec.toNat_add]; simp; omega

/-- Between two attempts the iteration control is the transition that applies (R184). -/
theorem settleStep_of_between {s : State} (hb : s.busy = true) (hs : s.sess = .awaitingReply)
    (hd : s.dec = .idle) : settleStep s = some (iterationAct s) := by
  unfold settleStep
  rw [if_neg (by rw [budgetSpent_iff]; simp [hd]), if_pos ((betweenAttempts_iff s).2 ⟨hb, hs, hd⟩)]

/-- Settle between two attempts, with none left (R184). -/
theorem settle_of_exhausted {s : State} (hb : s.busy = true) (hs : s.sess = .awaitingReply)
    (hd : s.dec = .idle) (ha : s.ackMax ≤ s.attempts) :
    settle s = { finish .ackTimeout false 0 s with sess := .exhausted } := by
  rw [settle_of_some (settleStep_of_between hb hs hd)]
  unfold iterationAct
  rw [if_pos ha, settle_of_idle (by rfl) (by exact hd)]
  rfl

/-- Settle between two attempts, with one left and a budget to scan with (R184). -/
theorem settle_of_attempt {s : State} (hb : s.busy = true) (hs : s.sess = .awaitingReply)
    (hd : s.dec = .idle) (ha : s.attempts < s.ackMax) (hm : 0 < s.syncMax.toNat) :
    settle s = { decodeStart { s with attempts := s.attempts + 1 } with rxpend := true } := by
  rw [settle_of_some (settleStep_of_between hb hs hd)]
  unfold iterationAct
  rw [if_neg (BitVec.not_le.2 ha), settle_of_scan (by rfl) (by rw [BitVec.lt_def]; exact hm)]

end Sys2Proof.Machine
end

