-- ==== Sys2Proof/Laws/Block.lean ====
section
/-! SUPPORT. Everything one step can do, said once: the shapes a byte answer takes (R144 to R158), how a decode's end goes on (R141, R185, R187), and the five kinds of turn (R9, R75). -/

namespace Sys2Proof.Machine

/-- How the end of a decode with outcome `o` in the state `w` goes on, up to Settle: a RECV finishes, a fatal error or a matching reply ends the session, and anything else leaves it between two attempts. -/
inductive DecodeEnd (o : ResultReg) (w : State) : State → Prop where
  | recv : w.op = .recv → DecodeEnd o w (finish o.code o.chFatal o.chPhase (ended o w))
  | fatal : w.op ≠ .recv → o.code = .channelError → o.chFatal = true →
      DecodeEnd o w (finish .channelError true o.chPhase { ended o w with sess := .failed })
  | nack : w.op ≠ .recv → o.code = .ok → DecodeEnd o w (nackMatchAct (ended o w))
  | ack : w.op ≠ .recv → o.code = .ok → DecodeEnd o w (ackMatchAct (ended o w))
  | goesOn : w.op ≠ .recv → ¬ (o.code = .channelError ∧ o.chFatal = true) → DecodeEnd o w (ended o w)

/-- The state in which an answer ends the decode, and its outcome (R146, R151, R155, R158). -/
inductive EndsFrom (v : State) : RxEvent → State → ResultReg → Prop where
  | timeout : EndsFrom v .timeout
      (if v.dec = .sync then { v with syncDisc := v.syncCnt } else v) ⟨.channelError, false, phaseNum v.dec⟩
  | fatal : EndsFrom v .fatal
      (if v.dec = .sync then { v with syncDisc := v.syncCnt } else v) ⟨.channelError, true, phaseNum v.dec⟩
  | badLength (b : Byte) : v.dec = .msgId → v.rxLenf = 0 →
      EndsFrom v (.byte b) { v with rxId := b, ckCalc := b } ⟨.invalidLength, false, 0⟩
  | badChecksum (b : Byte) : v.dec = .checksum → b ≠ v.ckCalc →
      EndsFrom v (.byte b) { v with ckRcvd := b } ⟨.checksumMismatch, false, 0⟩
  | badTrailer (b : Byte) : v.dec = .trailer1 → ¬ (v.trl0 = 0x0D ∧ b = 0x0A) →
      EndsFrom v (.byte b) { v with trl1 := b } ⟨.invalidTrailer, false, 0⟩
  | frame (b : Byte) : v.dec = .trailer1 → v.trl0 = 0x0D → b = 0x0A →
      EndsFrom v (.byte b) { v with trl1 := b } ⟨.ok, false, 0⟩

/-- What an answer of RXCH makes of the state `v`, up to Settle. -/
inductive RxStep (v : State) : RxEvent → State → Prop where
  | idle (b : Byte) : v.dec = .idle → RxStep v (.byte b) v
  | scan (b : Byte) : v.dec = .sync → markerMatch v b = false →
      RxStep v (.byte b) { v with syncCnt := v.syncCnt + 1, prev := b, prevValid := true }
  | marker (b : Byte) : v.dec = .sync → markerMatch v b = true →
      RxStep v (.byte b) { v with
        syncCnt := v.syncCnt + 1, prev := b, prevValid := true, syncDisc := v.syncCnt + 1 - 2, dec := .lenHi }
  | lenHi (b : Byte) : v.dec = .lenHi → RxStep v (.byte b) (lenHiByte b v)
  | lenLo (b : Byte) : v.dec = .lenLo → RxStep v (.byte b) (lenLoByte b v)
  | idNoPayload (b : Byte) : v.dec = .msgId → v.rxLenf = 1 →
      RxStep v (.byte b) { v with rxId := b, ckCalc := b, dec := .checksum }
  | idPayload (b : Byte) : v.dec = .msgId → v.rxLenf ≠ 0 → v.rxLenf ≠ 1 →
      RxStep v (.byte b) { v with rxId := b, ckCalc := b, dec := .payload }
  | payload (b : Byte) : v.dec = .payload → RxStep v (.byte b) (payloadByte b v)
  | checksum (b : Byte) : v.dec = .checksum → b = v.ckCalc →
      RxStep v (.byte b) { v with ckRcvd := b, dec := .trailer0 }
  | trailer0 (b : Byte) : v.dec = .trailer0 → RxStep v (.byte b) (trailer0Byte b v)
  | ends {e : RxEvent} {w u : State} {o : ResultReg} :
      EndsFrom v e w o → DecodeEnd o w u → RxStep v e u

/-- The machine after a block action: Settle, after the reply class where there is one. -/
def runBlock (b : Block) : Host.Outcome State Fault Refusal :=
  match afterBlock b with
  | .done t => .next t
  | .run i t => exec i t

/-- A reply class runs its action and Settle (R187 to R190). -/
theorem exec_decodeReply (k : ReplyKey) (s : State) :
    exec (decodeReply k) s = .next (settle (nackMatchAct s)) ∨
    exec (decodeReply k) s = .next (settle (ackMatchAct s)) ∨
    exec (decodeReply k) s = .next (settle s) := by
  unfold decodeReply
  split
  · exact .inl rfl
  · split
    · exact .inr (.inl rfl)
    · exact .inr (.inr rfl)

/-- The end of a decode, run to its end. -/
theorem runBlock_endDecode (c : Code) (f : Bool) (p : BitVec 4) (w : State) :
    ∃ u, DecodeEnd ⟨c, f, p⟩ w u ∧ runBlock (endDecode c f p w) = .next (settle u) := by
  rcases endDecode_cases c f p w with ⟨ho, h⟩ | ⟨ho, hc, hf, h⟩ | ⟨ho, hc, h⟩ | ⟨ho, hn, -, h⟩ <;>
    rw [h]
  · exact ⟨_, .recv ho, rfl⟩
  · exact ⟨_, .fatal ho hc hf, rfl⟩
  · rcases exec_decodeReply (replyKey (ended ⟨c, f, p⟩ w)) (ended ⟨c, f, p⟩ w) with h | h | h
    · exact ⟨_, .nack ho hc, h⟩
    · exact ⟨_, .ack ho hc, h⟩
    · exact ⟨_, .goesOn ho (fun hx => by rw [hc] at hx; cases hx.1), h⟩
  · exact ⟨_, .goesOn ho hn, rfl⟩

theorem runBlock_channelError (e : RxEvent) (f : Bool) (v : State)
    (he : EndsFrom v e (if v.dec = .sync then { v with syncDisc := v.syncCnt } else v)
      ⟨.channelError, f, phaseNum v.dec⟩) :
    ∃ u, RxStep v e u ∧ runBlock (channelErrorIn f v) = .next (settle u) := by
  obtain ⟨u, hu, h⟩ := runBlock_endDecode .channelError f (phaseNum v.dec)
    (if v.dec = .sync then { v with syncDisc := v.syncCnt } else v)
  exact ⟨u, .ends he hu, h⟩

/-- A BLOCK step on an answer of RXCH has one of the shapes of `RxStep`. -/
theorem runBlock_blockRx (e : RxEvent) (v : State) :
    ∃ u, RxStep v e u ∧ runBlock (blockRx e v) = .next (settle u) := by
  cases e with
  | timeout => exact runBlock_channelError _ _ v .timeout
  | fatal => exact runBlock_channelError _ _ v .fatal
  | byte b =>
    simp only [blockRx, phaseByte]
    split
    · next h => exact ⟨v, .idle b h, rfl⟩
    · next h =>
      cases hm : markerMatch v b with
      | false => exact ⟨_, .scan b h hm, by simp [syncByte, hm, runBlock, afterBlock]⟩
      | true => exact ⟨_, .marker b h hm, by simp [syncByte, hm, runBlock, afterBlock]⟩
    · next h => exact ⟨_, .lenHi b h, rfl⟩
    · next h => exact ⟨_, .lenLo b h, rfl⟩
    · next h =>
      unfold msgIdByte
      by_cases h0 : v.rxLenf = 0
      · obtain ⟨u, hu, hr⟩ := runBlock_endDecode .invalidLength false 0 { v with rxId := b, ckCalc := b }
        exact ⟨u, .ends (.badLength b h h0) hu, by simpa [h0] using hr⟩
      · by_cases h1 : v.rxLenf = 1
        · exact ⟨_, .idNoPayload b h h1, by simp [h1, runBlock, afterBlock]⟩
        · exact ⟨_, .idPayload b h h0 h1, by rw [if_neg h0, if_neg h1]; rfl⟩
    · next h => exact ⟨_, .payload b h, rfl⟩
    · next h =>
      unfold checksumByte
      by_cases hc : b = v.ckCalc
      · exact ⟨_, .checksum b h hc, by simp [hc, runBlock, afterBlock]⟩
      · obtain ⟨u, hu, hr⟩ := runBlock_endDecode .checksumMismatch false 0 { v with ckRcvd := b }
        exact ⟨u, .ends (.badChecksum b h hc) hu, by simpa [hc] using hr⟩
    · next h => exact ⟨_, .trailer0 b h, rfl⟩
    · next h =>
      unfold trailer1Byte
      by_cases ht : v.trl0 = trl1Byte ∧ b = trl2Byte
      · obtain ⟨u, hu, hr⟩ := runBlock_endDecode .ok false 0 { v with trl1 := b }
        refine ⟨u, .ends (.frame b h ht.1 ht.2) hu, ?_⟩
        rw [if_pos ht]; exact hr
      · obtain ⟨u, hu, hr⟩ := runBlock_endDecode .invalidTrailer false 0 { v with trl1 := b }
        refine ⟨u, .ends (.badTrailer b h ht) hu, ?_⟩
        rw [if_neg ht]; exact hr

/-- The state in which the block consumes an answer of RXCH. -/
def rxTaken (s : State) (rest : List Agent) (es : List RxEvent) : State :=
  { s with sched := rest, rxQ := es, rxpend := false }

/-- A step in which RXCH answers. -/
theorem step_rx {s : State} {e : RxEvent} {rest : List Agent} {es : List RxEvent}
    (h : rxAnswers s e rest es) : step s = runBlock (blockRx e (rxTaken s rest es)) := by
  obtain ⟨h1, h2, h3⟩ := h
  unfold step turn
  rw [h1]
  simp only [rxTurn, h2, h3, if_true]
  rfl

/-- A step in which TXCH answers. -/
theorem step_tx {s : State} {a : TxAnswer} {rest : List Agent} {as : List TxAnswer}
    (h : txAnswers s a rest as) :
    step s = .next (settle (blockTx a { s with sched := rest, txQ := as })) := by
  obtain ⟨h1, h2, h3⟩ := h
  unfold step turn
  rw [h1]
  simp only [txTurn, h2, h3, if_true]

/-- A step in which the host issues an access. -/
theorem step_host {s : State} {r : HostReq} {rest : List Agent} {rs : List HostReq}
    (h1 : s.sched = .host :: rest) (h2 : s.hostQ = r :: rs) :
    step s = exec (decodeHost r) { s with sched := rest, hostQ := rs } := by
  unfold step turn
  rw [h1]
  simp only [hostTurn, h2]

/-- A step of the reset input. -/
theorem step_reset {s : State} {rest : List Agent} (h : s.sched = .reset :: rest) :
    step s = .next (resetInput { s with sched := rest }) := by
  unfold step turn
  rw [h]

/-- The schedule is empty or names the agent that moves next. -/
theorem sched_cases (s : State) : s.sched = [] ∨ ∃ a rest, s.sched = a :: rest := by
  cases s.sched with
  | nil => exact .inl rfl
  | cons a rest => exact .inr ⟨a, rest, rfl⟩

/-- Everything a step can do: RESET, a host access, an answer of TXCH or of RXCH, or nothing but taking a turn off the schedule. -/
theorem step_cases {s t : State} (h : step s = .next t) :
    (∃ rest, s.sched = .reset :: rest ∧ t = resetInput { s with sched := rest }) ∨
    (∃ r rest rs, s.sched = .host :: rest ∧ s.hostQ = r :: rs ∧
      exec (decodeHost r) { s with sched := rest, hostQ := rs } = .next t) ∨
    (∃ a rest as, txAnswers s a rest as ∧ t = settle (blockTx a { s with sched := rest, txQ := as })) ∨
    (∃ e rest es u, rxAnswers s e rest es ∧ RxStep (rxTaken s rest es) e u ∧ t = settle u) ∨
    (t = { s with sched := s.sched.tail } ∧ (∀ e rest es, ¬ rxAnswers s e rest es) ∧
      (∀ a rest as, ¬ txAnswers s a rest as) ∧ ∀ rest, s.sched ≠ .reset :: rest) := by
  have quiet (hr : ∀ e rest es, ¬ rxAnswers s e rest es) (ht : ∀ a rest as, ¬ txAnswers s a rest as)
      (hs : ∀ rest, s.sched ≠ .reset :: rest) (hn : step s = .next { s with sched := s.sched.tail }) :
      t = { s with sched := s.sched.tail } ∧ (∀ e rest es, ¬ rxAnswers s e rest es) ∧
        (∀ a rest as, ¬ txAnswers s a rest as) ∧ ∀ rest, s.sched ≠ .reset :: rest := by
    rw [hn] at h; cases h; exact ⟨rfl, hr, ht, hs⟩
  rcases sched_cases s with hs | ⟨a, rest, hs⟩
  · refine .inr (.inr (.inr (.inr (quiet (fun e rest es k => by simp [rxAnswers, hs] at k)
      (fun a rest as k => by simp [txAnswers, hs] at k) (by simp [hs]) ?_))))
    unfold step turn; rw [hs]; cases s; simp only at hs; subst hs; rfl
  · cases a with
    | reset =>
      rw [step_reset hs] at h; cases h
      exact .inl ⟨rest, hs, rfl⟩
    | host =>
      have hqc : s.hostQ = [] ∨ ∃ r rs, s.hostQ = r :: rs := by cases s.hostQ <;> simp
      rcases hqc with hq | ⟨r, rs, hq⟩
      · refine .inr (.inr (.inr (.inr (quiet (fun e rest es k => by simp [rxAnswers, hs] at k)
          (fun a rest as k => by simp [txAnswers, hs] at k) (by simp [hs]) ?_))))
        unfold step turn; rw [hs]; simp [hostTurn, hq]
      · rw [step_host hs hq] at h
        exact .inr (.inl ⟨r, rest, rs, hs, hq, h⟩)
    | rxch =>
      by_cases hr : ∃ e es, s.rxQ = e :: es ∧ s.rxpend = true
      · obtain ⟨e, es, hq, hp⟩ := hr
        obtain ⟨u, hu, hb⟩ := runBlock_blockRx e (rxTaken s rest es)
        rw [step_rx ⟨hs, hq, hp⟩, hb] at h; cases h
        exact .inr (.inr (.inr (.inl ⟨e, rest, es, u, ⟨hs, hq, hp⟩, hu, rfl⟩)))
      · refine .inr (.inr (.inr (.inr (quiet (fun e rest es k => hr ⟨e, es, k.2.1, k.2.2⟩)
          (fun a rest as k => by simp [txAnswers, hs] at k) (by simp [hs]) ?_))))
        unfold step turn; rw [hs]
        simp only [rxTurn, List.tail_cons]
        cases hp : s.rxpend with
        | false => simp
        | true =>
          cases hq : s.rxQ with
          | nil => simp
          | cons e es => exact absurd ⟨e, es, hq, hp⟩ hr
    | txch =>
      by_cases hr : ∃ a as, s.txQ = a :: as ∧ s.txpend = true
      · obtain ⟨a, as, hq, hp⟩ := hr
        rw [step_tx ⟨hs, hq, hp⟩] at h; cases h
        exact .inr (.inr (.inl ⟨a, rest, as, ⟨hs, hq, hp⟩, rfl⟩))
      · refine .inr (.inr (.inr (.inr (quiet (fun e rest es k => by simp [rxAnswers, hs] at k)
          (fun a rest as k => hr ⟨a, as, k.2.1, k.2.2⟩) (by simp [hs]) ?_))))
        unfold step turn; rw [hs]
        simp only [txTurn, List.tail_cons]
        cases hp : s.txpend with
        | false => simp
        | true =>
          cases hq : s.txQ with
          | nil => simp
          | cons e es => exact absurd ⟨e, es, hq, hp⟩ hr

/-- How a decode's end goes on leaves everything outside the session and the decoder alone. -/
theorem decodeEnd_same {o : ResultReg} {w u : State} (h : DecodeEnd o w u) : SameOutside w u := by
  cases h <;> constructor <;> rfl

theorem endsFrom_same {v w : State} {e : RxEvent} {o : ResultReg} (h : EndsFrom v e w o) :
    SameOutside v w := by
  cases h with
  | timeout => split <;> constructor <;> rfl
  | fatal => split <;> constructor <;> rfl
  | _ => constructor <;> rfl

/-- An answer of RXCH changes nothing outside the session, the decoder and RXBUF. -/
theorem rxStep_same {v u : State} {e : RxEvent} (h : RxStep v e u) :
    SameOutside { v with mem := u.mem } u := by
  cases h with
  | payload b hd => unfold payloadByte; dsimp only; split <;> constructor <;> rfl
  | ends he hend =>
    have h1 := (endsFrom_same he).trans (decodeEnd_same hend)
    obtain ⟨⟩ := h1
    constructor <;> first | assumption | rfl
  | _ => constructor <;> rfl

/-- The one byte of memory that the PAYLOAD phase writes (R153). -/
theorem payloadByte_mem (b : Byte) (v : State) :
    (payloadByte b v).mem = memWrite v.mem (0x20000 + v.rxCount.toNat) b := by
  unfold payloadByte; dsimp only; split <;> rfl

/-- An answer of RXCH writes memory only in the PAYLOAD phase. -/
theorem rxStep_mem {v u : State} {e : RxEvent} (h : RxStep v e u) :
    u.mem = v.mem ∨ ∃ b, v.dec = .payload ∧ u = payloadByte b v := by
  cases h with
  | payload b hd => exact .inr ⟨b, hd, rfl⟩
  | ends he hend => exact .inl ((endsFrom_same he).trans (decodeEnd_same hend)).mem
  | _ => exact .inl rfl

/-- An answer of RXCH leaves the attempt counter alone, up to Settle. -/
theorem rxStep_attempts {v u : State} {e : RxEvent} (h : RxStep v e u) : u.attempts = v.attempts := by
  cases h with
  | payload b hd => unfold payloadByte; dsimp only; split <;> rfl
  | ends he hend =>
    have h1 : ∀ {o w u}, DecodeEnd o w u → u.attempts = w.attempts := fun h => by cases h <;> rfl
    rw [h1 hend]
    cases he with
    | timeout => split <;> rfl
    | fatal => split <;> rfl
    | _ => rfl
  | _ => rfl

/-- A run of any machine begins with its first step. -/
theorem coreRun_succ {M : Host.Core} {k : Nat} {s t : M.State} (h : M.step s = .next t) :
    M.run (k + 1) s = M.run k t := by
  simp only [Host.Core.run, h]

/-- A run of any machine in two parts. -/
theorem coreRun_add {M : Host.Core} {k j : Nat} {s t : M.State} (h : M.run k s = .next t) :
    M.run (k + j) s = M.run j t := by
  induction k generalizing s with
  | zero => cases h; rw [Nat.zero_add]
  | succ k ih =>
    simp only [Host.Core.run] at h
    cases hs : M.step s with
    | next u =>
      rw [hs] at h
      rw [show k + 1 + j = (k + j) + 1 by omega, coreRun_succ hs]
      exact ih h
    | fault r => rw [hs] at h; cases h
    | refused r => rw [hs] at h; cases h

/-- A run whose first step answers `t` goes on from `t`. -/
theorem run_succ {k : Nat} {s t : State} (h : step s = .next t) :
    Host.Core.run Sys2Proof.core (k + 1) s = Host.Core.run Sys2Proof.core k t :=
  coreRun_succ (M := Sys2Proof.core) h

end Sys2Proof.Machine
end

