-- ==== Sys2Proof/Laws/Memory.lean ====
section
/-! SUPPORT. The laws of the buffer memory: what a write changes and what it leaves, runs of bytes, and the canonical form that every operation keeps. -/

namespace Sys2Proof.Machine

@[simp] theorem memRead_nil (a : Nat) : memRead [] a = none := rfl

/-- A byte just written reads back. -/
@[simp] theorem memRead_memWrite_same (m : Memory) (a : Nat) (v : Byte) :
    memRead (memWrite m a v) a = some v := by
  induction m with
  | nil => simp [memWrite, memRead]
  | cons c m ih =>
    obtain ⟨k, w⟩ := c
    simp only [memWrite]
    split
    · simp [memRead]
    · split
      · simp [memRead]
      · next h => simp [memRead, Ne.symm h, ih]

/-- A write leaves every other byte and mark alone. -/
theorem memRead_memWrite_other (m : Memory) (a b : Nat) (v : Byte) (h : b ≠ a) :
    memRead (memWrite m a v) b = memRead m b := by
  induction m with
  | nil => simp [memWrite, memRead, Ne.symm h]
  | cons c m ih =>
    obtain ⟨k, w⟩ := c
    simp only [memWrite]
    split
    · simp [memRead, Ne.symm h]
    · split
      · next hk => subst hk; simp [memRead, Ne.symm h]
      · simp [memRead, ih]

/-- What a write lists: the byte written, and what was listed before. -/
theorem mem_memWrite {m : Memory} {a : Nat} {v : Byte} {c : Host.Cell}
    (h : c ∈ memWrite m a v) : c = (a, v) ∨ c ∈ m := by
  induction m with
  | nil => simpa [memWrite] using h
  | cons d m ih =>
    obtain ⟨k, w⟩ := d
    simp only [memWrite] at h
    split at h
    · simpa using h
    · split at h
      · rcases List.mem_cons.1 h with h | h
        · exact .inl h
        · exact .inr (List.mem_cons_of_mem _ h)
      · rcases List.mem_cons.1 h with h | h
        · exact .inr (by simp [h])
        · exact (ih h).imp_right (List.mem_cons_of_mem _)

/-- A write keeps the canonical form. -/
theorem memWrite_wf {m : Memory} (a : Nat) (v : Byte) (h : m.wf) : Memory.wf (memWrite m a v) := by
  induction m with
  | nil => simp [memWrite, Memory.wf]
  | cons d m ih =>
    obtain ⟨k, w⟩ := d
    obtain ⟨hd, hm⟩ := List.pairwise_cons.1 h
    simp only [memWrite]
    split
    · next hak =>
      refine List.pairwise_cons.2 ⟨fun c hc => ?_, h⟩
      rcases List.mem_cons.1 hc with rfl | hc
      · exact hak
      · exact Nat.lt_trans hak (hd c hc)
    · next hak =>
      split
      · next hk => subst hk; exact List.pairwise_cons.2 ⟨hd, hm⟩
      · next hk =>
        refine List.pairwise_cons.2 ⟨fun c hc => ?_, ih hm⟩
        rcases mem_memWrite hc with rfl | hc
        · simp only; omega
        · exact hd c hc

/-- Writing a run of bytes leaves every address outside the run alone. -/
theorem memRead_memWriteBytes_outside (vs : List Byte) (m : Memory) (a x : Nat)
    (h : x < a ∨ a + vs.length ≤ x) : memRead (memWriteBytes m a vs) x = memRead m x := by
  induction vs generalizing m a with
  | nil => rfl
  | cons v vs ih =>
    simp only [List.length_cons] at h
    simp only [memWriteBytes]
    rw [ih _ _ (by omega), memRead_memWrite_other _ _ _ _ (by omega)]

/-- A run of bytes just written reads back, byte by byte. -/
theorem memRead_memWriteBytes_inside (vs : List Byte) (m : Memory) (a j : Nat) (h : j < vs.length) :
    memRead (memWriteBytes m a vs) (a + j) = vs[j]? := by
  induction vs generalizing m a j with
  | nil => simp at h
  | cons v vs ih =>
    simp only [memWriteBytes]
    cases j with
    | zero => rw [Nat.add_zero, memRead_memWriteBytes_outside _ _ _ _ (by omega)]; simp
    | succ j =>
      have := ih (memWrite m a v) (a + 1) j (by simpa using h)
      rw [show a + (j + 1) = a + 1 + j by omega, this]; simp

/-- What writing a run lists: bytes of the run, and what was listed before. -/
theorem mem_memWriteBytes {vs : List Byte} {m : Memory} {a : Nat} {c : Host.Cell}
    (h : c ∈ memWriteBytes m a vs) : (a ≤ c.1 ∧ c.1 < a + vs.length) ∨ c ∈ m := by
  induction vs generalizing m a with
  | nil => exact .inr h
  | cons v vs ih =>
    simp only [memWriteBytes] at h
    simp only [List.length_cons]
    rcases ih h with h | h
    · exact .inl (by omega)
    · rcases mem_memWrite h with rfl | h
      · exact .inl (by simp)
      · exact .inr h

/-- Writing a run keeps the canonical form. -/
theorem memWriteBytes_wf {m : Memory} (vs : List Byte) (a : Nat) (h : m.wf) :
    Memory.wf (memWriteBytes m a vs) := by
  induction vs generalizing m a with
  | nil => exact h
  | cons v vs ih => exact ih _ (memWrite_wf a v h)

/-- The memory after reset is in canonical form. -/
theorem reset_mem_wf : Memory.wf State.reset.mem := List.Pairwise.nil

theorem memReadBytes_succ (m : Memory) (a n : Nat) :
    memReadBytes m a (n + 1) =
      (memRead m a).bind fun v => (memReadBytes m (a + 1) n).map (v :: ·) := by
  simp only [memReadBytes]
  cases memRead m a <;> cases memReadBytes m (a + 1) n <;> rfl

/-- A run of bytes that is read has the length asked for. -/
theorem memReadBytes_length {m : Memory} {a n : Nat} {p : List Byte}
    (h : memReadBytes m a n = some p) : p.length = n := by
  induction n generalizing a p with
  | zero => simp only [memReadBytes, Option.some.injEq] at h; subst h; rfl
  | succ n ih =>
    rw [memReadBytes_succ] at h
    simp only [Option.bind_eq_some_iff, Option.map_eq_some_iff] at h
    obtain ⟨v, -, q, hq, rfl⟩ := h
    simp [ih hq]

/-- Byte `k` of a run that is read. -/
theorem memRead_of_memReadBytes {m : Memory} {a n : Nat} {p : List Byte}
    (h : memReadBytes m a n = some p) {k : Nat} (hk : k < n) : memRead m (a + k) = p[k]? := by
  induction n generalizing a p k with
  | zero => omega
  | succ n ih =>
    rw [memReadBytes_succ] at h
    simp only [Option.bind_eq_some_iff, Option.map_eq_some_iff] at h
    obtain ⟨v, hv, q, hq, rfl⟩ := h
    cases k with
    | zero => simpa using hv
    | succ k => rw [show a + (k + 1) = a + 1 + k by omega, ih hq (by omega)]; simp

/-- A run is read as `p` when every byte of it is the byte of `p`. -/
theorem memReadBytes_eq_some {m : Memory} {a : Nat} {p : List Byte}
    (h : ∀ k, k < p.length → memRead m (a + k) = p[k]?) : memReadBytes m a p.length = some p := by
  induction p generalizing a with
  | nil => rfl
  | cons v p ih =>
    rw [List.length_cons, memReadBytes_succ]
    have h0 := h 0 (by simp)
    rw [Nat.add_zero] at h0
    rw [h0, ih fun k hk => ?_]
    · rfl
    · have := h (k + 1) (by simpa using hk)
      rw [show a + 1 + k = a + (k + 1) by omega, this]; simp

/-- Two memories that agree on a run read it alike. -/
theorem memReadBytes_congr {m m' : Memory} {a n : Nat}
    (h : ∀ k, k < n → memRead m' (a + k) = memRead m (a + k)) :
    memReadBytes m' a n = memReadBytes m a n := by
  induction n generalizing a with
  | zero => rfl
  | succ n ih =>
    have h0 := h 0 (by omega)
    rw [Nat.add_zero] at h0
    rw [memReadBytes_succ, memReadBytes_succ, h0, ih fun k hk => ?_]
    have := h (k + 1) (by omega)
    rwa [show a + (k + 1) = a + 1 + k by omega] at this

/-- A run is not read exactly when some byte of it is unwritten. -/
theorem memReadBytes_eq_none {m : Memory} {a n : Nat} :
    memReadBytes m a n = none ↔ ∃ k, k < n ∧ memRead m (a + k) = none := by
  induction n generalizing a with
  | zero => simp [memReadBytes]
  | succ n ih =>
    rw [memReadBytes_succ]
    constructor
    · intro h
      cases h0 : memRead m a with
      | none => exact ⟨0, by omega, h0⟩
      | some v =>
        rw [h0] at h
        simp only [Option.bind_some, Option.map_eq_none_iff] at h
        obtain ⟨k, hk, hr⟩ := ih.1 h
        exact ⟨k + 1, by omega, by rwa [show a + (k + 1) = a + 1 + k by omega]⟩
    · rintro ⟨k, hk, hr⟩
      cases k with
      | zero => rw [Nat.add_zero] at hr; rw [hr]; rfl
      | succ k =>
        rw [show a + (k + 1) = a + 1 + k by omega] at hr
        rw [ih.2 ⟨k, by omega, hr⟩]
        cases memRead m a <;> rfl

/-- A run just written is read back whole. -/
theorem memReadBytes_memWriteBytes (vs : List Byte) (m : Memory) (a : Nat) :
    memReadBytes (memWriteBytes m a vs) a vs.length = some vs :=
  memReadBytes_eq_some fun k hk => memRead_memWriteBytes_inside vs m a k hk

/-- Writing the byte after a run makes the run one longer. -/
theorem memReadBytes_memWrite_next {m : Memory} {a n : Nat} {p : List Byte} (b : Byte)
    (h : memReadBytes m a n = some p) :
    memReadBytes (memWrite m (a + n) b) a (n + 1) = some (p ++ [b]) := by
  have hl := memReadBytes_length h
  rw [show n + 1 = (p ++ [b]).length by simp [hl]]
  refine memReadBytes_eq_some fun k hk => ?_
  simp only [List.length_append, List.length_singleton] at hk
  by_cases hkn : k = n
  · subst hkn hl; simp
  · rw [memRead_memWrite_other _ _ _ _ (by omega), memRead_of_memReadBytes h (by omega),
      List.getElem?_append_left (by omega)]

/-- The wire frame is 8 bytes longer than its payload (R123). -/
@[simp] theorem encodeFrame_length (id : Byte) (p : List Byte) :
    (encodeFrame id p).length = p.length + 8 := by
  simp [encodeFrame]

end Sys2Proof.Machine
end

