-- ==== Sys2Proof/Laws/Access.lean ====
section
/-! SUPPORT. Everything a host access can do, said once (R210 to R215): the next states it answers, and the stops. -/

namespace Sys2Proof.Machine

/-- A register's own offset names it (R21). -/
@[simp] theorem regAt_regOffset (r : Reg) : regAt (regOffset r).toNat = some r := by cases r <;> rfl

/-- An offset that names a register is that register's (R21). -/
theorem regAt_eq_some {a : Nat} {r : Reg} (h : regAt a = some r) : a = (regOffset r).toNat := by
  unfold regAt at h
  split at h <;> first | (cases h; rfl) | cases h

/-- The offsets of registers lie in the register window. -/
@[simp] theorem region_regOffset (r : Reg) : region (regOffset r).toNat = .reg := by cases r <;> rfl

/-- In the register window, exactly the multiples of 4 name a register (R55, R64). -/
theorem regAt_window {a : Nat} (h : a ≤ 0x47) : regAt a = none ↔ a % 4 ≠ 0 := by
  interval_cases a <;> decide

theorem region_cases (a : Nat) :
    (a ≤ 0x47 ∧ region a = .reg) ∨
    (0x10000 ≤ a ∧ a ≤ 0x1FFFD ∧ region a = .buf .txbuf) ∨
    (0x20000 ≤ a ∧ a ≤ 0x2FFFD ∧ region a = .buf .rxbuf) ∨
    (0x40000 ≤ a ∧ a ≤ 0x50005 ∧ region a = .buf .framebuf) ∨
    region a = .reserved := by
  unfold region
  split_ifs with h1 h2 h3 h4
  · exact .inl ⟨h1, rfl⟩
  · exact .inr (.inl ⟨h2.1, h2.2, rfl⟩)
  · exact .inr (.inr (.inl ⟨h3.1, h3.2, rfl⟩))
  · exact .inr (.inr (.inr (.inl ⟨h4.1, h4.2, rfl⟩)))
  · exact .inr (.inr (.inr (.inr rfl)))

theorem region_reg {a : Nat} (h : a ≤ 0x47) : region a = .reg := by simp [region, h]

theorem region_txbuf {a : Nat} (h1 : 0x10000 ≤ a) (h2 : a ≤ 0x1FFFD) : region a = .buf .txbuf := by
  unfold region; rw [if_neg (by omega), if_pos ⟨h1, h2⟩]

theorem region_rxbuf {a : Nat} (h1 : 0x20000 ≤ a) (h2 : a ≤ 0x2FFFD) : region a = .buf .rxbuf := by
  unfold region; rw [if_neg (by omega), if_neg (by omega), if_pos ⟨h1, h2⟩]

theorem region_framebuf {a : Nat} (h1 : 0x40000 ≤ a) (h2 : a ≤ 0x50005) :
    region a = .buf .framebuf := by
  unfold region; rw [if_neg (by omega), if_neg (by omega), if_neg (by omega), if_pos ⟨h1, h2⟩]

/-- What ENCODE and SEND have built over the payload `p` (R126): the command start, FRAMEBUF and FRAME_LEN. -/
def built (o : OpCode) (p : List Byte) (s : State) : State :=
  { commandStart o s with
    mem := memWriteBytes s.mem (bufBase .framebuf) (encodeFrame s.txId p)
    frameLen := BitVec.ofNat 17 (s.txLen.toNat + 8) }

theorem buildFrame_some {o : OpCode} {s : State} {p : List Byte} (h : txPayload s = some p) :
    buildFrame (commandStart o s) = some (built o p s) := by
  have h' : txPayload (commandStart o s) = some p := h
  unfold buildFrame; rw [h']; rfl

theorem buildFrame_none {o : OpCode} {s : State} (h : txPayload s = none) :
    buildFrame (commandStart o s) = none := by
  have h' : txPayload (commandStart o s) = none := h
  unfold buildFrame; rw [h']

/-- The next states a host access can answer. -/
inductive HostStep (s : State) : State → Prop where
  | read (v : Word) : HostStep s { s with hostData := v }
  | syncMax (d : Word) : s.busy = false → HostStep s { s with syncMax := d }
  | ackMax (d : Word) : s.busy = false → HostStep s { s with ackMax := d }
  | txId (v : Byte) : s.busy = false → HostStep s { s with txId := v }
  | txLen (v : BitVec 16) : s.busy = false → HostStep s { s with txLen := v }
  | byteWrite (a : Nat) (v : Byte) : s.busy = false → 0x10000 ≤ a → a ≤ 0x1FFFD →
      HostStep s { s with mem := memWrite s.mem a v }
  | encode (p : List Byte) : s.busy = false → s.txLen ≠ 65535 → txPayload s = some p →
      HostStep s (settle (finish .ok false 0 (built .encode p s)))
  | recv : s.busy = false → HostStep s (settle (decodeStart (commandStart .recv s)))
  | send (p : List Byte) : s.busy = false → s.txLen ≠ 65535 → txPayload s = some p →
      HostStep s (settle { built .send p s with sess := .sending, txpend := true })

theorem startEncode_next {s t : State} (hb : s.busy = false) (h : startEncode s = .next t) :
    HostStep s t := by
  unfold startEncode at h
  split at h
  · cases h
  · next hl =>
    cases hp : txPayload s with
    | none => rw [buildFrame_none hp] at h; cases h
    | some p => rw [buildFrame_some hp] at h; cases h; exact .encode p hb hl hp

theorem startSend_next {s t : State} (hb : s.busy = false) (h : startSend s = .next t) :
    HostStep s t := by
  unfold startSend at h
  split at h
  · cases h
  · next hl =>
    cases hp : txPayload s with
    | none => rw [buildFrame_none hp] at h; cases h
    | some p => rw [buildFrame_some hp] at h; cases h; exact .send p hb hl hp

theorem startRecv_next {s t : State} (hb : s.busy = false) (h : startRecv s = .next t) :
    HostStep s t := by
  cases h; exact .recv hb

theorem cmdWrite_next {d : Word} {s t : State} (hb : s.busy = false) (h : cmdWrite d s = .next t) :
    HostStep s t := by
  unfold cmdWrite at h
  split_ifs at h
  · cases h
  · cases h
  · exact startEncode_next hb h
  · exact startRecv_next hb h
  · exact startSend_next hb h

theorem regWrite_next {r : Reg} {d : Word} {s t : State} (h : regWrite r d s = .next t) :
    HostStep s t := by
  unfold regWrite at h
  split_ifs at h with hw hb
  · cases h
  · cases h
  · have hb : s.busy = false := by simpa using hb
    split at h
    · exact cmdWrite_next hb h
    · cases h; exact .syncMax d hb
    · cases h; exact .ackMax d hb
    · unfold txIdWrite at h
      split_ifs at h
      · cases h
      · cases h; exact .txId _ hb
    · unfold txLenWrite at h
      split_ifs at h
      · cases h
      · cases h; exact .txLen _ hb
    · cases h

theorem bufRead_next {a : Nat} {s t : State} (h : bufRead a s = .next t) : HostStep s t := by
  unfold bufRead at h
  split at h
  · cases h
  · cases h; exact .read _

theorem bufWrite_next {b : Buf} {a : Nat} {v : Byte} {s t : State} (hr : region a = .buf b)
    (h : bufWrite b a v s = .next t) : HostStep s t := by
  unfold bufWrite at h
  split_ifs at h with h1 h2
  · cases h
  · cases h
  · have hx : b = .txbuf := by simpa using h1
    subst hx
    cases h
    rcases region_cases a with ⟨-, h⟩ | ⟨h3, h4, -⟩ | ⟨-, -, h⟩ | ⟨-, -, h⟩ | h
    · rw [h] at hr; cases hr
    · exact .byteWrite a v (by simpa using h2) h3 h4
    · rw [h] at hr; cases hr
    · rw [h] at hr; cases hr
    · rw [h] at hr; cases hr

/-- A host access that answers a next state answers one of `HostStep`. -/
theorem hostAccess_next {w sz : Bool} {a : Nat} {d : Word} {s t : State}
    (h : hostAccess w sz a d s = .next t) : HostStep s t := by
  unfold hostAccess at h
  split at h
  · cases h
  · split at h
    · cases h
    · split at h
      · cases h
      · split at h
        · exact regWrite_next h
        · cases h; exact .read _
  · next b hr =>
    split at h
    · cases h
    · split at h
      · exact bufWrite_next hr h
      · exact bufRead_next h

/-- An instruction of the host that answers a next state answers one of `HostStep`; a reply class answers its action and Settle. -/
theorem exec_next {i : Instr} {s t : State} (h : exec i s = .next t) :
    HostStep s t ∨ (i = .nackMatch ∧ t = settle (nackMatchAct s)) ∨
    (i = .ackMatch ∧ t = settle (ackMatchAct s)) ∨ ((∃ id m, i = .unrelated id m) ∧ t = settle s) := by
  cases i with
  | encode =>
    simp only [exec, execEncode] at h
    split at h
    · cases h
    · next hb => exact .inl (startEncode_next (by simpa using hb) h)
  | recv =>
    simp only [exec, execRecv] at h
    split at h
    · cases h
    · next hb => exact .inl (startRecv_next (by simpa using hb) h)
  | send =>
    simp only [exec, execSend] at h
    split at h
    · cases h
    · next hb => exact .inl (startSend_next (by simpa using hb) h)
  | cmdReserved w =>
    simp only [exec, execCmdReserved, refuse] at h
    split_ifs at h
  | rd a => exact .inl (hostAccess_next h)
  | wr a d => exact .inl (hostAccess_next h)
  | rdb a => exact .inl (hostAccess_next h)
  | wrb a d => exact .inl (hostAccess_next h)
  | nackMatch => cases h; exact .inr (.inl ⟨rfl, rfl⟩)
  | ackMatch => cases h; exact .inr (.inr (.inl ⟨rfl, rfl⟩))
  | unrelated id m => cases h; exact .inr (.inr (.inr ⟨⟨id, m, rfl⟩, rfl⟩))

/-- A host access decodes to no reply class. -/
theorem decodeHost_not_reply (r : HostReq) :
    decodeHost r ≠ .nackMatch ∧ decodeHost r ≠ .ackMatch ∧ ∀ id m, decodeHost r ≠ .unrelated id m := by
  cases r with
  | cmd w =>
    simp only [decodeHost, decodeCmd]
    split_ifs <;> simp
  | bus q d =>
    simp only [decodeHost, decodeBus]
    split <;> simp

/-- A host turn that answers a next state answers one of `HostStep`. -/
theorem exec_decodeHost_next {r : HostReq} {s t : State} (h : exec (decodeHost r) s = .next t) :
    HostStep s t := by
  obtain ⟨h1, h2, h3⟩ := decodeHost_not_reply r
  rcases exec_next h with h | ⟨hi, -⟩ | ⟨hi, -⟩ | ⟨⟨id, m, hi⟩, -⟩
  · exact h
  · exact absurd hi h1
  · exact absurd hi h2
  · exact absurd hi (h3 id m)

/-- RD of a register answers its word (R211). -/
theorem exec_rd_reg (r : Reg) (s : State) :
    exec (.rd (regOffset r)) s = .next { s with hostData := regWord r s } := by
  simp only [exec, execRd, hostAccess, region_regOffset, regAt_regOffset]
  rfl

/-- WR of a register goes on with `regWrite` (R212). -/
theorem exec_wr_reg (r : Reg) (d : Word) (s : State) :
    exec (.wr (regOffset r) d) s = regWrite r d s := by
  simp only [exec, execWr, hostAccess, region_regOffset, regAt_regOffset]
  rfl

/-- The upper bits of a word from bit `k` on are 0 exactly when the word is below 2^k. -/
theorem upper_eq_zero_iff (d : Word) (k w : Nat) (h : k + w = 32) :
    d.extractLsb' k w = 0 ↔ d.toNat < 2 ^ k := by
  rw [← BitVec.toNat_inj]
  simp only [BitVec.extractLsb'_toNat, BitVec.ofNat_eq_ofNat, BitVec.toNat_ofNat, Nat.zero_mod,
    Nat.shiftRight_eq_div_pow]
  have hd := d.isLt
  have : d.toNat / 2 ^ k < 2 ^ w := by
    rw [Nat.div_lt_iff_lt_mul (Nat.two_pow_pos k), ← Nat.pow_add, Nat.add_comm, h]; exact hd
  rw [Nat.mod_eq_of_lt this, Nat.div_eq_zero_iff]
  simp

theorem refuse_eq {k : State → Refusal} {s : State} {r : Refusal} (h : refuse k s = .refused r) :
    r = k { s with refused := true } := by
  cases h; rfl

/-- FRAME_LEN of a frame that was built (R126). -/
theorem built_frameLen {o : OpCode} {p : List Byte} {s : State} (hl : s.txLen ≠ 65535) :
    (built o p s).frameLen.toNat = s.txLen.toNat + 8 := by
  have := s.txLen.isLt
  have : s.txLen.toNat ≠ 65535 := fun h => hl (by rw [← BitVec.toNat_inj]; exact h)
  simp [built]; omega

end Sys2Proof.Machine
end

