-- ==== Sys2Proof/Laws/Encoding.lean ====
section
/-! SUPPORT. The fields of a bus request word (R95): reading W, SZ and ADDR out of a word built from them, and a word from its fields. -/

namespace Sys2Proof

theorem busWord_getLsbD (k : BitVec 2) (a : BitVec 20) (i : Nat) :
    (busWord k a).getLsbD i = if i < 20 then a.getLsbD i else k.getLsbD (i - 20) := by
  have h := BitVec.getLsbD_append (x := k) (y := a) (i := i)
  unfold busWord
  exact h

@[simp] theorem busWord_addr (k : BitVec 2) (a : BitVec 20) : (busWord k a).extractLsb' 0 20 = a := by
  apply BitVec.eq_of_getLsbD_eq
  intro i hi
  rw [BitVec.getLsbD_extractLsb', Nat.zero_add, busWord_getLsbD]
  simp [hi]

theorem busWord_w (k : BitVec 2) (a : BitVec 20) : (busWord k a).getLsbD 21 = k.getLsbD 1 := by
  rw [busWord_getLsbD]; rfl

theorem busWord_sz (k : BitVec 2) (a : BitVec 20) : (busWord k a).getLsbD 20 = k.getLsbD 0 := by
  rw [busWord_getLsbD]; rfl

@[simp] theorem busWord_getElem_w (k : BitVec 2) (a : BitVec 20) : (busWord k a)[21] = k[1] := by
  rw [← BitVec.getLsbD_eq_getElem, ← BitVec.getLsbD_eq_getElem, busWord_w]

@[simp] theorem busWord_getElem_sz (k : BitVec 2) (a : BitVec 20) : (busWord k a)[20] = k[0] := by
  rw [← BitVec.getLsbD_eq_getElem, ← BitVec.getLsbD_eq_getElem, busWord_sz]

/-- A request word is built from its own fields. -/
theorem busWord_of_fields (q : BitVec 22) (k : BitVec 2) (h1 : q.getLsbD 21 = k.getLsbD 1)
    (h0 : q.getLsbD 20 = k.getLsbD 0) : busWord k (q.extractLsb' 0 20) = q := by
  apply BitVec.eq_of_getLsbD_eq
  intro i hi
  rw [busWord_getLsbD]
  split
  · next h => simp [h]
  · have : i = 20 ∨ i = 21 := by omega
    rcases this with rfl | rfl
    · exact h0.symm
    · exact h1.symm

end Sys2Proof
end

