-- ==== Sys2Proof/Laws/PerInstr.lean ====
section
/-! SUPPORT. Statements made per instruction: the family TableRow says that the encoding of a well-formed instruction matches its row of spec/opcode_table.json. -/

namespace Sys2Proof.Laws.TableRow

/-- The bits of the encoded object that the opcode table's match and mask are about: the command word, the request word, or RX_ID. -/
def tableBits : Raw → Nat
  | .host (.cmd w) => w.toNat
  | .host (.bus q _) => q.toNat
  | .reply k => k.id.toNat

/-- The row of spec/opcode_table.json that the instruction's encoding matches: its mask and its match.
The row CMD_RESERVED covers only OP = 0, and UNRELATED has no pattern; what they leave out has the empty mask here. -/
def row : Instr → Nat × Nat
  | .encode => (0xFFFFFFFF, 0x00000001)
  | .recv => (0xFFFFFFFF, 0x00000002)
  | .send => (0xFFFFFFFF, 0x00000003)
  | .cmdReserved w => if w.toNat % 16 = 0 then (0x0000000F, 0x00000000) else (0, 0)
  | .rd _ => (0x300000, 0x100000)
  | .wr _ _ => (0x300000, 0x300000)
  | .rdb _ => (0x300000, 0x000000)
  | .wrb _ _ => (0x300000, 0x200000)
  | .nackMatch => (0xFF, 0x84)
  | .ackMatch => (0xFF, 0x83)
  | .unrelated _ _ => (0, 0)

/-- The encoding of a well-formed instruction matches its row of the opcode table. -/
def Statement (i : Instr) : Prop :=
  i.wellFormed = true → tableBits (Sys2Proof.encode i) &&& (row i).1 = (row i).2

theorem busWord_masked (k : BitVec 2) (a : BitVec 20) :
    (busWord k a).toNat &&& 0x300000 = k.toNat * 0x100000 := by
  have h : (busWord k a) &&& 0x300000 = busWord k 0 := by
    apply BitVec.eq_of_getLsbD_eq
    intro i hi
    rw [BitVec.getLsbD_and, busWord_getLsbD, busWord_getLsbD]
    interval_cases i <;> simp
  have h2 := congrArg BitVec.toNat h
  rw [BitVec.toNat_and] at h2
  refine Eq.trans h2 ?_
  unfold busWord
  rw [BitVec.toNat_append]
  simp [Nat.shiftLeft_eq]

theorem encode : Statement .encode := fun _ => by decide
theorem recv : Statement .recv := fun _ => by decide
theorem send : Statement .send := fun _ => by decide
theorem cmdReserved (w : Word) : Statement (.cmdReserved w) := fun _ => by
  simp only [row, tableBits, Sys2Proof.encode]
  split
  · next h => exact (Nat.and_two_pow_sub_one_eq_mod w.toNat 4).trans h
  · exact Nat.and_zero _
theorem rd (a : BitVec 20) : Statement (.rd a) := fun _ => busWord_masked 1 a
theorem wr (a : BitVec 20) (d : Word) : Statement (.wr a d) := fun _ => busWord_masked 3 a
theorem rdb (a : BitVec 20) : Statement (.rdb a) := fun _ => busWord_masked 0 a
theorem wrb (a : BitVec 20) (d : Byte) : Statement (.wrb a d) := fun _ => busWord_masked 2 a
theorem nackMatch : Statement .nackMatch := fun _ => by decide
theorem ackMatch : Statement .ackMatch := fun _ => by decide
theorem unrelated (id : Byte) (m : Bool) : Statement (.unrelated id m) := fun _ => Nat.and_zero _

end Sys2Proof.Laws.TableRow
end

