-- ==== Sys2Proof/Machine/HostPrograms.lean ====
section
/-! DEFINITION. The host's program notation as the accesses it stands for (R103, R104). The host's own control flow (BNZ, and how often WAIT reads) is outside FSYNC (R103; log entry 14): a host that runs a program is one choice of State.hostQ. -/

namespace Sys2Proof.Machine

/-- `WR REG, d`: W = 1, SZ = 1 (R103). -/
def reqWr (r : Reg) (d : Word) : HostReq := .bus (busWord 3#2 (regOffset r)) d

/-- `RD REG`: W = 0, SZ = 1 (R103). -/
def reqRd (r : Reg) : HostReq := .bus (busWord 1#2 (regOffset r)) 0

/-- `WRB a, v`: W = 1, SZ = 0 (R103). -/
def reqWrb (a : BitVec 20) (v : Byte) : HostReq := .bus (busWord 2#2 a) (v.setWidth 32)

/-- `RDB a`: W = 0, SZ = 0 (R103). -/
def reqRdb (a : BitVec 20) : HostReq := .bus (busWord 0#2 a) 0

/-- `WRB a, v` for each byte `v` from address `a` on. -/
def reqWrbs (a : BitVec 20) : List Byte → List HostReq
  | [] => []
  | v :: vs => reqWrb a v :: reqWrbs (a + 1) vs

/-- `ENCODE` (R104). -/
def pseudoEncode : List HostReq := [reqWr .cmd 1]

/-- `RECV` (R104). -/
def pseudoRecv : List HostReq := [reqWr .cmd 2]

/-- `SEND` (R104). -/
def pseudoSend : List HostReq := [reqWr .cmd 3]

/-- `WAIT` (R104), for a host that reads STATUS `n` times. -/
def pseudoWait (n : Nat) : List HostReq := List.replicate n (reqRd .status)

/-- The host leaves WAIT once the STATUS it read has BUSY = 0 (R104). -/
def waitEnds (v : Word) : Bool := !v.getLsbD 0

/-- `LOADTX id, b0, ..., b(n-1)` (R104). -/
def pseudoLoadTx (id : Byte) (p : List Byte) : List HostReq :=
  reqWr .txId (id.setWidth 32) :: reqWrbs 0x10000 p ++ [reqWr .txLen (BitVec.ofNat 32 p.length)]

/-- `SETMAX s, a` (R104). -/
def pseudoSetMax (syncMax ackMax : Word) : List HostReq := [reqWr .syncMax syncMax, reqWr .ackMax ackMax]

end Sys2Proof.Machine
end

