-- ==== Sys2Proof/Tests/Slice0.lean ====
section
/-! SUPPORT. Tests of the model against values written in the spec (30_encoding.md, R220, 95_test_vectors.md), and one witness for the hypotheses of every statement in Certificates/Slice0/Obligations.lean. -/

namespace Sys2Proof.Tests

open Sys2Proof.Machine

/- ## Helpers -/

/-- The next state, if there is one. -/
def nextOf : Host.Outcome State Fault Refusal → Option State
  | .next t => some t
  | _ => none

/-- The refusal, if there is one. -/
def refusalOf : Host.Outcome State Fault Refusal → Option Refusal
  | .refused r => some r
  | _ => none

/-- The fault, if there is one. -/
def faultOf : Host.Outcome State Fault Refusal → Option Fault
  | .fault f => some f
  | _ => none

/-- The state that a test goes on from. -/
def stateOf (o : Host.Outcome State Fault Refusal) : State := (nextOf o).getD .reset

/-- What the host reads. -/
def readOf (o : Host.Outcome State Fault Refusal) : Option Word := (nextOf o).map (·.hostData)

/-- `LOADTX 09, 02, 01` with SYNC_MAX 32 and ACK_MAX 3, the setup of section 4 of 95_test_vectors.md. -/
def loaded : State :=
  { State.reset with
    syncMax := 32, ackMax := 3, txId := 0x09, txLen := 2, mem := [(0x10000, 0x02), (0x10001, 0x01)] }

/-- A RECV under way in phase `ph`, with its byte request outstanding. -/
def receiving (ph : Phase) : State :=
  { loaded with op := .recv, busy := true, dec := ph, rxpend := true }

/-- A SEND in its ACK-wait loop, in the first attempt, in phase `ph`. -/
def awaiting (ph : Phase) : State :=
  { loaded with
    op := .send, busy := true, sess := .awaitingReply, attempts := 1, dec := ph, rxpend := true }

/-- RXCH answers `e` next. -/
def rxNext (e : RxEvent) (s : State) : State := { s with sched := .rxch :: s.sched, rxQ := e :: s.rxQ }

/-- TXCH answers `a` next. -/
def txNext (a : TxAnswer) (s : State) : State := { s with sched := .txch :: s.sched, txQ := a :: s.txQ }

/-- SENDING: the state after `WR CMD, 3` in `loaded`. -/
def sending : State := stateOf (exec .send loaded)

/- ## Well-formedness: an ill-formed term for each check -/

theorem test_wf_reserved : Instr.wellFormed (.cmdReserved 0x00000012) = true := by decide
theorem test_wf_reserved_encode : Instr.wellFormed (.cmdReserved 1) = false := by decide
theorem test_wf_reserved_recv : Instr.wellFormed (.cmdReserved 2) = false := by decide
theorem test_wf_reserved_send : Instr.wellFormed (.cmdReserved 3) = false := by decide
theorem test_wf_unrelated : Instr.wellFormed (.unrelated 0x83 true) = true := by decide
theorem test_wf_unrelated_nack : Instr.wellFormed (.unrelated 0x84 false) = false := by decide
theorem test_wf_unrelated_ack : Instr.wellFormed (.unrelated 0x83 false) = false := by decide

/- ## Decoding: words written out from the spec -/

/-- R91: OP is 1 and bits [31:4] are 0. -/
theorem test_decode_encode : decodeWord .cmd32 0b0000_0000_0000_0000_0000_0000_0000_0001 = .ok .encode := by decide
theorem test_decode_recv : decodeWord .cmd32 0b0000_0000_0000_0000_0000_0000_0000_0010 = .ok .recv := by decide
theorem test_decode_send : decodeWord .cmd32 0b0000_0000_0000_0000_0000_0000_0000_0011 = .ok .send := by decide
/-- R213, corner case: 0x11 has a legal OP and a reserved bit set. -/
theorem test_decode_reserved : decodeWord .cmd32 0x00000011 = .ok (.cmdReserved 0x11) := by decide
/-- R93: OP 0 is reserved. -/
theorem test_decode_reserved_zero : decodeWord .cmd32 0 = .ok (.cmdReserved 0) := by decide
/-- R220: RD STATUS, W = 0, SZ = 1, ADDR = 0x00004. -/
theorem test_decode_rd : decodeWord .busReq22 0b01_0000_0000_0000_0000_0100 = .ok (.rd 0x00004) := by decide
/-- R220: WR SYNC_MAX, W = 1, SZ = 1, ADDR = 0x00010, its data beside it. -/
theorem test_decode_wr : decodeHost (.bus 0b11_0000_0000_0000_0001_0000 0x00000010) = .wr 0x00010 0x10 := by decide
/-- H1: RDB 0x20000, W = 0, SZ = 0. -/
theorem test_decode_rdb : decodeWord .busReq22 0b00_0010_0000_0000_0000_0000 = .ok (.rdb 0x20000) := by decide
/-- R220: WRB 0x10000, W = 1, SZ = 0, data 0x02. -/
theorem test_decode_wrb : decodeHost (.bus 0b10_0001_0000_0000_0000_0000 0x02) = .wrb 0x10000 0x02 := by decide
/-- R100: 0x84 with a payload that names the command, tested first. -/
theorem test_decode_nack : decodeWord .reply 0b0_1000_0100 = .ok .nackMatch := by decide
theorem test_decode_ack : decodeWord .reply 0b0_1000_0011 = .ok .ackMatch := by decide
/-- R100: 0x83 that names another command is unrelated (bit 8 is the model's own, log entry 8). -/
theorem test_decode_unrelated : decodeWord .reply 0b1_1000_0011 = .ok (.unrelated 0x83 true) := by decide
theorem test_decode_other_id : decodeWord .reply 0x09 = .ok (.unrelated 0x09 false) := by decide

/-- A number with a one above its format's bits is rejected by name. -/
theorem test_decode_too_wide : decodeWord .busReq22 0x400000 = .error (.tooWide .busReq22) := by decide
theorem test_decode_bytes : decodeBytes .cmd32 [0x03, 0x00, 0x00, 0x00] = .ok .send := by decide
theorem test_decode_few_bytes : decodeBytes .cmd32 [0x03] = .error (.badLength .cmd32) := by decide

/-- The lines of program P1 (95_test_vectors.md): their request words and data. -/
theorem test_program_words :
    pseudoSetMax 0x20 0x3 = [.bus 0x300010 0x20, .bus 0x300014 0x3] ∧
    pseudoLoadTx 0x09 [0x02, 0x01] =
      [.bus 0x300018 0x09, .bus 0x210000 0x02, .bus 0x210001 0x01, .bus 0x30001C 0x2] ∧
    pseudoSend = [.bus 0x300000 0x3] ∧ pseudoWait 1 = [.bus 0x100004 0] ∧
    reqRdb 0x20000 = .bus 0x020000 0 := by decide

theorem test_wait_ends : waitEnds 0x12D = false ∧ waitEnds 0x3C = true := by decide

/- ## The table words the host asks about -/

theorem test_table_rows :
    decodeTableWord 32 1 = some .encode ∧ decodeTableWord 32 2 = some .recv ∧
    decodeTableWord 32 3 = some .send ∧ decodeTableWord 8 0 = some (.cmdReserved 0) ∧
    decodeTableWord 24 0x100000 = some (.rd 0) ∧ decodeTableWord 24 0x300000 = some (.wr 0 0) ∧
    decodeTableWord 24 0 = some (.rdb 0) ∧ decodeTableWord 24 0x200000 = some (.wrb 0 0) ∧
    decodeTableWord 8 0x84 = some .nackMatch ∧ decodeTableWord 8 0x83 = some .ackMatch ∧
    decodeTableWord 0 0 = some (.unrelated 0 false) := by decide

/-- The next step after placing a table word runs its instruction: here a SEND presents frame E6 (Z6), and a NACK ends the session NACKED. -/
theorem test_fetch_send :
    (nextOf (step (State.reset.withFetchWord 32 3))).map (fun t => (t.sess, t.frameLen.toNat)) =
      some (.sending, 8) := by decide
theorem test_fetch_nack :
    (nextOf (step (State.reset.withFetchWord 8 0x84))).map (fun t => (t.sess, t.result.code)) =
      some (.nacked, .commandRejected) := by decide
theorem test_fetch_ack :
    (nextOf (step (State.reset.withFetchWord 8 0x83))).map (fun t => t.sess) = some .acked := by decide
/-- With ACK_MAX = 0 an unrelated reply leaves no attempt (R184). -/
theorem test_fetch_unrelated :
    (nextOf (step (State.reset.withFetchWord 0 0))).map (fun t => t.sess) = some .exhausted := by decide

/- ## Checksum and frame: vectors K and E -/

theorem test_fold_k1 : xorFold 0x09 [0x02, 0x01] = 0x0A := by decide
theorem test_fold_k9 : xorFold 0x05 [0xA0, 0xA1, 0x0D, 0x0A] = 0x03 := by decide
theorem test_frame_e1 :
    encodeFrame 0x09 [0x02, 0x01] = [0xA0, 0xA1, 0x00, 0x03, 0x09, 0x02, 0x01, 0x0A, 0x0D, 0x0A] := by decide
theorem test_frame_e5 : encodeFrame 0x42 [] = [0xA0, 0xA1, 0x00, 0x01, 0x42, 0x42, 0x0D, 0x0A] := by decide

/- ## The commands -/

/-- N1: ENCODE of 09, [02 01]; STATUS 0x4, FRAME_LEN 10, FRAMEBUF = E1. -/
theorem test_encode_n1 :
    (nextOf (exec .encode loaded)).map (fun t =>
      (statusWord t, t.frameLen.toNat, memReadBytes t.mem 0x40000 10)) =
    some (0x4, 10, some [0xA0, 0xA1, 0x00, 0x03, 0x09, 0x02, 0x01, 0x0A, 0x0D, 0x0A]) := by decide
/-- N5: TX_LEN = 2 with only TXBUF[0] written faults. -/
theorem test_encode_n5 :
    (faultOf (exec .encode { loaded with mem := [(0x10000, 0x02)] })).isSome = true := by decide
/-- Step 0 of the trace in 3.1: STATUS 0x109. -/
theorem test_recv_start :
    (nextOf (exec .recv { State.reset with syncMax := 16 })).map statusWord = some 0x109 := by decide
/-- Z5: RECV with SYNC_MAX = 0 ends SYNC_TIMEOUT in its command step. -/
theorem test_recv_z5 :
    (nextOf (exec .recv .reset)).map (fun t => (resultWord t.result, t.syncCnt, statusWord t)) =
      some (0x2, 0, 0x8) := by decide
/-- S1: after the CMD write STATUS is 0x1D. -/
theorem test_send_status : statusWord sending = 0x1D ∧ sending.txpend = true := by decide
/-- N4: TX_LEN = 65535 is refused on use. -/
theorem test_send_overflow :
    refusalOf (exec .send { loaded with txLen := 65535 }) =
      some (.txLenOverflow { loaded with txLen := 65535, refused := true }) := by decide
/-- R220: command word 0 is RESERVED_OPCODE, 0x12 is RESERVED_BITS. -/
theorem test_reserved :
    refusalOf (exec (.cmdReserved 0) .reset) = some (.reservedOpcode { State.reset with refused := true }) ∧
    refusalOf (exec (.cmdReserved 0x12) .reset) = some (.reservedBits { State.reset with refused := true }) := by
  decide

/- ## The host bus: R220 and vectors H -/

/-- H6, H8: RESULT reads 0 while BUSY, FRAME_LEN reads 10. -/
theorem test_rd : readOf (exec (.rd 0x08) sending) = some 0 ∧ readOf (exec (.rd 0x44) sending) = some 0xA := by
  decide
/-- R220: RD at 0x48 is BAD_ADDRESS, RD at 6 is BAD_WIDTH. -/
theorem test_rd_refused :
    refusalOf (exec (.rd 0x48) .reset) = some (.badAddress { State.reset with refused := true }) ∧
    refusalOf (exec (.rd 0x06) .reset) = some (.badWidth { State.reset with refused := true }) := by decide
/-- R220: WR SYNC_MAX, and WR TX_ID with a reserved bit. -/
theorem test_wr :
    (nextOf (exec (.wr 0x10 0x10) .reset)).map (·.syncMax) = some 16 ∧
    refusalOf (exec (.wr 0x18 0x109) .reset) = some (.reservedBits { State.reset with refused := true }) := by
  decide
/-- R212: READ_ONLY is checked before BUSY; H5: WR CMD while a SEND runs. -/
theorem test_wr_busy :
    refusalOf (exec (.wr 0x04 0) sending) = some (.readOnly { sending with refused := true }) ∧
    refusalOf (exec (.wr 0x00 2) sending) = some (.busy { sending with refused := true }) := by decide
/-- H3 and H4, on the frame that `sending` built. -/
theorem test_rdb :
    readOf (exec (.rdb 0x40007) sending) = some 0x0A ∧ (faultOf (exec (.rdb 0x4000A) sending)).isSome = true := by
  decide
/-- H10: the last byte of TXBUF. -/
theorem test_wrb_last : readOf (exec (.rdb 0x1FFFD) (stateOf (exec (.wrb 0x1FFFD 0x55) .reset))) = some 0x55 := by
  decide
/-- R220: WRB 0x20000 is READ_ONLY, and so is the state it leaves. -/
theorem test_wrb_refused :
    refusalOf (exec (.wrb 0x20000 0x00) .reset) = some (.readOnly { State.reset with refused := true }) := by decide

/- ## Steps of the traces 3.1 and 4.1 -/

/-- Step 3 of 3.1: A1 after A0 finds the marker, SYNC_DISC = 1, STATUS 0x209. -/
theorem test_trace_marker :
    (nextOf (step (rxNext (.byte 0xA1)
      { receiving .sync with syncCnt := 2, prev := 0xA0, prevValid := true }))).map
      (fun t => (statusWord t, t.syncCnt, t.syncDisc, syncPrevWord t)) = some (0x209, 3, 1, 0x1A1) := by decide
/-- Step 7 of 3.1: the one payload byte goes to RXBUF[0], STATUS 0x609, CHECK 0x8A. -/
theorem test_trace_payload :
    (nextOf (step (rxNext (.byte 0x09)
      { receiving .payload with rxId := 0x83, rxLenf := 2, ckCalc := 0x83 }))).map
      (fun t => (statusWord t, checkWord t, t.rxCount, memRead t.mem 0x20000)) =
      some (0x609, 0x8A, 1, some 0x09) := by decide
/-- Step 10 of 3.1: the exact trailer ends the RECV with OK, STATUS 0x8, TRAILER 0x0A0D. -/
theorem test_trace_ok :
    (nextOf (step (rxNext (.byte 0x0A) { receiving .trailer1 with trl0 := 0x0D }))).map
      (fun t => (statusWord t, trailerWord t, resultWord t.result)) = some (0x8, 0xA0D, 1) := by decide
/-- X7: payload_len 0 is INVALID_LENGTH after the id byte, CHECK 0x42. -/
theorem test_x7 :
    (nextOf (step (rxNext (.byte 0x42) (receiving .msgId)))).map
      (fun t => (resultWord t.result, checkWord t, t.rxId)) = some (0x4, 0x42, 0x42) := by decide
/-- X8: checksum 8B where 8A is right, CHECK 0x8B8A. -/
theorem test_x8 :
    (nextOf (step (rxNext (.byte 0x8B) { receiving .checksum with ckCalc := 0x8A }))).map
      (fun t => (resultWord t.result, checkWord t)) = some (0x5, 0x8B8A) := by decide
/-- X12: Fatal in PAYLOAD is 0x513. -/
theorem test_x12 :
    (nextOf (step (rxNext .fatal { receiving .payload with rxLenf := 3, rxCount := 1 }))).map
      (fun t => (resultWord t.result, statusWord t)) = some (0x513, 0x8) := by decide
/-- X13: Timeout in SYNC is 0x103, with every byte so far discarded. -/
theorem test_x13 :
    (nextOf (step (rxNext .timeout { receiving .sync with syncCnt := 3, prev := 0x33, prevValid := true }))).map
      (fun t => (resultWord t.result, t.syncDisc)) = some (0x103, 3) := by decide
/-- S5: WriteErr is 0xF13 and FAILED, STATUS 0x6C. -/
theorem test_s5 :
    (nextOf (step (txNext .writeErr sending))).map (fun t => (resultWord t.result, statusWord t)) =
      some (0xF13, 0x6C) := by decide
/-- Step 1 of 4.1: WriteOk starts attempt 1, STATUS 0x12D, and the channel has E1. -/
theorem test_write_ok :
    (nextOf (step (txNext .writeOk sending))).map (fun t => (statusWord t, t.attempts, t.txSent)) =
      some (0x12D, 1, [[0xA0, 0xA1, 0x00, 0x03, 0x09, 0x02, 0x01, 0x0A, 0x0D, 0x0A]]) := by decide
/-- S4: ACK_MAX = 0 is EXHAUSTED right after WriteOk, with no decode, STATUS 0x5C. -/
theorem test_s4 :
    (nextOf (step (txNext .writeOk { sending with ackMax := 0 }))).map
      (fun t => (statusWord t, t.attempts, resultWord t.lastDec)) = some (0x5C, 0, 0) := by decide
/-- Step 11 of 4.1: a Timeout consumes attempt 2, LAST_DEC 0x103 stays visible, STATUS 0x12D. -/
theorem test_trace_timeout :
    (nextOf (step (rxNext .timeout { awaiting .sync with attempts := 2 }))).map
      (fun t => (statusWord t, t.attempts, resultWord t.lastDec, resultWord t.result)) =
      some (0x12D, 3, 0x103, 0) := by decide
/-- Step 20 of 4.1: the NACK for 09 ends NACKED, STATUS 0x4C, RESULT 7. -/
theorem test_nack :
    (nextOf (step (rxNext (.byte 0x0A)
      { awaiting .trailer1 with rxId := 0x84, rxLenf := 2, trl0 := 0x0D, mem := [(0x20000, 0x09)] }))).map
      (fun t => (statusWord t, resultWord t.result, resultWord t.lastDec)) = some (0x4C, 0x7, 0x1) := by decide
/-- S1: the ACK for 09 ends ACKED, STATUS 0x3C. -/
theorem test_ack :
    (nextOf (step (rxNext (.byte 0x0A)
      { awaiting .trailer1 with rxId := 0x83, rxLenf := 2, trl0 := 0x0D, mem := [(0x20000, 0x09)] }))).map
      (fun t => (statusWord t, resultWord t.result)) = some (0x3C, 0x1) := by decide
/-- Step 10 of 4.1: an ACK that names FF is unrelated and attempt 2 starts, STATUS 0x12D. -/
theorem test_unrelated :
    (nextOf (step (rxNext (.byte 0x0A)
      { awaiting .trailer1 with rxId := 0x83, rxLenf := 2, trl0 := 0x0D, mem := [(0x20000, 0xFF)] }))).map
      (fun t => (statusWord t, t.attempts, resultWord t.lastDec)) = some (0x12D, 2, 0x1) := by decide
/-- S9: an ACK with an empty payload is unrelated. -/
theorem test_unrelated_empty :
    (nextOf (step (rxNext (.byte 0x0A)
      { awaiting .trailer1 with rxId := 0x83, rxLenf := 1, trl0 := 0x0D, mem := [(0x20000, 0x09)] }))).map
      (fun t => t.sess) = some .awaitingReply := by decide
/-- R244: with SYNC_MAX = 0 Settle runs through every attempt that is left. -/
theorem test_settle_runs_through :
    (nextOf (step (txNext .writeOk { sending with syncMax := 0 }))).map
      (fun t => (statusWord t, t.attempts, resultWord t.lastDec)) = some (0x5C, 3, 0x2) := by decide
/-- Z4: RESET during SENDING. -/
theorem test_reset :
    (nextOf (step { sending with sched := [.reset] })).map
      (fun t => (statusWord t, t.txpend, memRead t.mem 0x40000)) = some (0, false, none) := by decide

/- ## Witnesses: the hypotheses of each statement can be met together -/

/-- What a statement about a next state needs: the state meets its hypotheses and answers one. -/
def answers (o : Host.Outcome State Fault Refusal) : Prop := ∃ t, o = .next t

theorem wit_decode_of_encode :
    (Instr.cmdReserved 0xFFFFFFFF).wellFormed = true ∧ (Instr.wr 0xFFFFF 0xFFFFFFFF).wellFormed = true ∧
    (Instr.unrelated 0xFF false).wellFormed = true := by decide

/-- EncodeOfDecodeIsTheObject: a WR and a WRB request word. -/
theorem wit_encode_of_decode :
    ((0x300010 : BitVec 22).getLsbD 21 = true ∧ (0x300010 : BitVec 22).getLsbD 20 = true) ∧
    ((0x210000 : BitVec 22).getLsbD 21 = true ∧ (0x210000 : BitVec 22).getLsbD 20 = false) := by decide

/-- FrameHasTheWireFormat: the empty payload and the longest. -/
theorem wit_frame : ([] : List Byte).length ≤ 65534 ∧ (List.replicate 65534 (0 : Byte)).length ≤ 65534 :=
  ⟨by decide, by rw [List.length_replicate]⟩

theorem wit_write_register :
    State.reset.busy = false ∧ (0xFF : Word).toNat < 2 ^ 8 ∧ ¬ (0x100 : Word).toNat < 2 ^ 8 ∧
    (0xFFFF : Word).toNat < 2 ^ 16 ∧ ¬ (0x10000 : Word).toNat < 2 ^ 16 := by decide

theorem wit_read_buffer :
    region (0x10000 : BitVec 20).toNat = .buf .txbuf ∧ memRead loaded.mem 0x10000 = some 0x02 ∧
    region (0x50005 : BitVec 20).toNat = .buf .framebuf ∧ memRead loaded.mem 0x50005 = none := by decide

theorem wit_write_buffer :
    loaded.busy = false ∧ (0x10000 ≤ (0x1FFFD : BitVec 20).toNat ∧ (0x1FFFD : BitVec 20).toNat ≤ 0x1FFFD) ∧
    (0x20000 ≤ (0x2FFFD : BitVec 20).toNat ∧ (0x2FFFD : BitVec 20).toNat ≤ 0x2FFFD) ∧
    (0x40000 ≤ (0x50005 : BitVec 20).toNat ∧ (0x50005 : BitVec 20).toNat ≤ 0x50005) := by decide

/-- OddAccessesAreRefused: the first and the last address of every reserved range, and the ends of the register window. -/
theorem wit_odd :
    region 0x00048 = .reserved ∧ region 0x0FFFF = .reserved ∧ region 0x1FFFE = .reserved ∧
    region 0x1FFFF = .reserved ∧ region 0x2FFFE = .reserved ∧ region 0x3FFFF = .reserved ∧
    region 0x50006 = .reserved ∧ region 0xFFFFF = .reserved ∧
    (0x47 : BitVec 20).toNat ≤ 0x47 ∧ (0x47 : BitVec 20).toNat % 4 ≠ 0 ∧
    region 0x10000 = .buf .txbuf ∧ region 0x50005 = .buf .framebuf := by decide

theorem wit_read_only :
    Reg.frameLen ≠ .cmd ∧ Reg.frameLen ≠ .syncMax ∧ Reg.frameLen ≠ .ackMax ∧ Reg.frameLen ≠ .txId ∧
    Reg.frameLen ≠ .txLen := by decide

theorem wit_busy :
    sending.busy = true ∧ 0x10000 ≤ (0x10000 : BitVec 20).toNat ∧ (0x10000 : BitVec 20).toNat ≤ 0x1FFFD := by decide

/-- ReservedCommandsAreRefused: OP 0, OP 4, OP 15, and OP 1 and 3 with a reserved bit. -/
theorem wit_reserved :
    loaded.busy = false ∧
    ((Instr.cmdReserved 0).wellFormed = true ∧ (0 : Word).toNat % 16 = 0) ∧
    ((Instr.cmdReserved 4).wellFormed = true ∧ 4 ≤ (4 : Word).toNat % 16) ∧
    ((Instr.cmdReserved 0xFFFFFFFF).wellFormed = true ∧ 4 ≤ (0xFFFFFFFF : Word).toNat % 16) ∧
    ((Instr.cmdReserved 0x11).wellFormed = true ∧ 1 ≤ (0x11 : Word).toNat % 16 ∧ (0x11 : Word).toNat % 16 ≤ 3) ∧
    ((Instr.cmdReserved 0x13).wellFormed = true ∧ 1 ≤ (0x13 : Word).toNat % 16 ∧ (0x13 : Word).toNat % 16 ≤ 3) := by
  decide

theorem wit_overlong :
    ({ loaded with txLen := 65535 } : State).busy = false ∧
    ({ loaded with txLen := 65535 } : State).txLen.toNat = 65535 := by decide

/-- R219: READ_ONLY and BUSY are no cause for an access of the wrong width, and each is one for its own (RefusalsAreTheListed). -/
theorem test_causes_need_their_width :
    ¬ refusalCause (.wrb 0x04 0) .reset (.readOnly .reset) ∧
    ¬ refusalCause (.wr 0x20000 0) .reset (.readOnly .reset) ∧
    ¬ refusalCause (.wr 0x04 0) sending (.busy sending) ∧
    refusalCause (.wrb 0x20000 0) .reset (.readOnly .reset) ∧
    refusalCause (.wr 0x10 0) sending (.busy sending) :=
  ⟨by simp [refusalCause, regWritten, bufWritten, region],
    by simp [refusalCause, regWritten, bufWritten, regAt],
    by simp [refusalCause, regWritten, bufWritten, regAt, writable],
    .inr (.inl rfl), rfl, .inl ⟨.syncMax, rfl, rfl⟩⟩

theorem wit_refusals :
    (Instr.rd 0x48).wellFormed = true ∧
    exec (.rd 0x48) .reset = .refused (.badAddress { State.reset with refused := true }) := ⟨rfl, rfl⟩

theorem wit_fault :
    exec (.rdb 0x20000) .reset = .fault (.uninitRead { State.reset with faulted := true }) := rfl

theorem wit_unwritten :
    let s : State := { loaded with mem := [(0x10000, 0x02)] };
    s.busy = false ∧ s.txLen.toNat ≠ 65535 ∧ 1 < s.txLen.toNat ∧ memRead s.mem (0x10000 + 1) = none := by decide

/-- EncodeCompletes and SendCompletes, over a payload of two bytes and over none. -/
theorem wit_commands :
    loaded.busy = false ∧ loaded.dec = .idle ∧ loaded.txLen.toNat ≠ 65535 ∧
    memReadBytes loaded.mem 0x10000 loaded.txLen.toNat = some [0x02, 0x01] ∧
    memReadBytes State.reset.mem 0x10000 State.reset.txLen.toNat = some [] := by decide

/-- EncodeCompletes: its stops. -/
theorem wit_encode_stops :
    sending.busy = true ∧
    (let s : State := { loaded with txLen := 65535 }; s.busy = false ∧ s.txLen.toNat = 65535) ∧
    (let s : State := { loaded with mem := [(0x10000, 0x02)] };
      s.busy = false ∧ s.txLen.toNat ≠ 65535 ∧ 1 < s.txLen.toNat ∧ memRead s.mem (0x10000 + 1) = none) := by
  decide

/-- ResetValues: the state that RESET makes of a running SEND, and a buffer byte it has cleared. -/
theorem wit_reset_values :
    stateOf (step { sending with sched := [.reset] }) = resetInput { sending with sched := [] } ∧
    region (0x40000 : BitVec 20).toNat = .buf .framebuf := by decide

theorem wit_recv :
    loaded.busy = false ∧ loaded.syncMax ≠ 0 ∧ State.reset.busy = false ∧ State.reset.syncMax = 0 := by decide

theorem wit_store :
    memReadBytes loaded.mem 0x10000 loaded.txLen.toNat = some [0x02, 0x01] ∧
    answers (exec .encode loaded) ∧ answers (exec .send loaded) := ⟨by decide, ⟨_, rfl⟩, ⟨_, rfl⟩⟩

theorem wit_no_store :
    answers (exec .recv loaded) ∧ answers (exec (.rd 0x04) loaded) ∧
    answers (exec (.wr 0x10 5) loaded) ∧ (0x10 : BitVec 20) ≠ 0 ∧ answers (exec (.rdb 0x10000) loaded) ∧
    answers (exec .nackMatch loaded) ∧ answers (exec .ackMatch loaded) ∧
    answers (exec (.unrelated 0x09 true) (awaiting .idle)) :=
  ⟨⟨_, rfl⟩, ⟨_, rfl⟩, ⟨_, rfl⟩, by decide, ⟨_, rfl⟩, ⟨_, rfl⟩, ⟨_, rfl⟩, ⟨_, rfl⟩⟩

/-- OperationsKeepTheirOperands: a step that starts a SEND, and a step that decodes a byte. -/
theorem wit_operands :
    let s : State := { loaded with sched := [.host], hostQ := [.cmd 3] };
    answers (step s) ∧ (∀ rest, s.sched ≠ .reset :: rest) ∧
    ∀ rest r rs, s.sched = .host :: rest → s.hostQ = r :: rs →
      (∀ a d, decodeHost r = .wr a d → a = 0) ∧ ∀ a v, decodeHost r ≠ .wrb a v := by
  refine ⟨⟨_, rfl⟩, by simp, ?_⟩
  intro rest r rs _ h
  have h : HostReq.cmd 3 = r ∧ [] = rs := by simpa using h
  obtain ⟨rfl, -⟩ := h
  exact ⟨fun a d h => (by simp [decodeHost, decodeCmd] at h), fun a v h => by simp [decodeHost, decodeCmd] at h⟩

theorem wit_matching : (awaiting .idle).dec = .idle := rfl

/-- UnrelatedReplyConsumesAnAttempt: an attempt left, none left, and SYNC_MAX = 0. -/
theorem wit_unrelated :
    let s := awaiting .idle;
    s.busy = true ∧ s.op = .send ∧ s.sess = .awaitingReply ∧ s.dec = .idle ∧ ¬ s.ackMax ≤ s.attempts ∧
    s.syncMax ≠ 0 ∧ ({ s with ackMax := 1 } : State).ackMax ≤ ({ s with ackMax := 1 } : State).attempts ∧
    ({ s with syncMax := 0 } : State).syncMax = 0 := by decide

theorem wit_host_turn :
    let s : State := { loaded with sched := [.host], hostQ := [.bus 0x100004 0] };
    s.sched = .host :: [] ∧ s.hostQ = .bus 0x100004 0 :: [] := by decide

theorem wit_reply_class :
    let s := rxNext (.byte 0x0A) { awaiting .trailer1 with trl0 := 0x0D };
    rxAnswers s (.byte 0x0A) [] [] ∧ s.dec = .trailer1 ∧ s.trl0 = 0x0D ∧ s.op = .send := by
  simp only [rxAnswers]; decide

/-- WaitingChangesNothing: each agent with nothing to do. -/
theorem wit_waiting :
    State.reset.sched = [] ∧
    (let s : State := { loaded with sched := [.host] }; s.sched = .host :: [] ∧ s.hostQ = []) ∧
    (let s : State := { receiving .sync with sched := [.rxch] };
      s.sched = .rxch :: [] ∧ (s.rxpend = false ∨ s.rxQ = [])) ∧
    (let s : State := { sending with sched := [.txch] };
      s.sched = .txch :: [] ∧ (s.txpend = false ∨ s.txQ = [])) := by decide

theorem wit_reset : ({ sending with sched := [.reset] } : State).sched = .reset :: [] := rfl

/-- ScannerConsumesAByte: the byte that completes the marker, and one that does not, with one byte of budget left after it. -/
theorem wit_scanner :
    (let s := rxNext (.byte 0xA1) { receiving .sync with syncCnt := 1, prev := 0xA0, prevValid := true };
      rxAnswers s (.byte 0xA1) [] [] ∧ s.dec = .sync ∧ s.syncCnt < s.syncMax ∧
      s.prevValid = true ∧ s.prev = 0xA0) ∧
    (let s := rxNext (.byte 0x55) { receiving .sync with syncCnt := 30 };
      rxAnswers s (.byte 0x55) [] [] ∧ s.dec = .sync ∧ s.syncCnt < s.syncMax ∧
      ¬ (s.prevValid = true ∧ s.prev = 0xA0 ∧ (0x55 : Byte) = 0xA1) ∧ s.syncCnt.toNat + 1 < s.syncMax.toNat) := by
  simp only [rxAnswers]; decide

theorem wit_plain :
    rxAnswers (rxNext (.byte 0x02) (receiving .lenHi)) (.byte 0x02) [] [] ∧
    rxAnswers (rxNext (.byte 0x02) (receiving .lenLo)) (.byte 0x02) [] [] ∧
    rxAnswers (rxNext (.byte 0x0D) (receiving .trailer0)) (.byte 0x0D) [] [] := by
  simp only [rxAnswers]; decide

/-- IdByteStartsTheChecksum: payload_len 0, 1 and 65535. -/
theorem wit_id :
    (let s := rxNext (.byte 0x42) (receiving .msgId);
      rxAnswers s (.byte 0x42) [] [] ∧ s.dec = .msgId ∧ s.rxLenf.toNat = 0) ∧
    (let s := rxNext (.byte 0x42) { receiving .msgId with rxLenf := 1 };
      rxAnswers s (.byte 0x42) [] [] ∧ s.dec = .msgId ∧ s.rxLenf.toNat ≠ 0) ∧
    (let s := rxNext (.byte 0x42) { receiving .msgId with rxLenf := 65535 };
      rxAnswers s (.byte 0x42) [] [] ∧ s.dec = .msgId ∧ s.rxLenf.toNat ≠ 0) := by
  simp only [rxAnswers]; decide

/-- PayloadByteIsStored: the first of many payload bytes, and the last. -/
theorem wit_payload :
    (let s := rxNext (.byte 0x09) { receiving .payload with rxLenf := 65535 };
      rxAnswers s (.byte 0x09) [] [] ∧ s.dec = .payload ∧ s.rxCount.toNat + 1 < s.rxLenf.toNat) ∧
    (let s := rxNext (.byte 0x09) { receiving .payload with rxLenf := 65535, rxCount := 65533 };
      rxAnswers s (.byte 0x09) [] [] ∧ s.dec = .payload ∧ s.rxCount.toNat + 1 < s.rxLenf.toNat) := by
  simp only [rxAnswers]; decide

theorem wit_checked :
    (let s := rxNext (.byte 0x8B) { receiving .checksum with ckCalc := 0x8A };
      rxAnswers s (.byte 0x8B) [] [] ∧ s.dec = .checksum ∧ 0x8B ≠ s.ckCalc) ∧
    (let s := rxNext (.byte 0x8A) { receiving .checksum with ckCalc := 0x8A };
      rxAnswers s (.byte 0x8A) [] [] ∧ s.dec = .checksum ∧ 0x8A = s.ckCalc) ∧
    (let s := rxNext (.byte 0x0A) { receiving .trailer1 with trl0 := 0x0D };
      rxAnswers s (.byte 0x0A) [] [] ∧ s.dec = .trailer1 ∧ s.trl0 = 0x0D ∧ s.op = .recv) := by
  simp only [rxAnswers]; decide

/-- FailedDecodeEndsRecv: a byte that spends the budget, and an error after the scan. -/
theorem wit_failed_decode :
    (let s := rxNext (.byte 0x55) { receiving .sync with syncCnt := 31 };
      rxAnswers s (.byte 0x55) [] [] ∧ s.dec ≠ .idle ∧ s.op = .recv ∧ s.syncCnt < s.syncMax ∧
      decodeFailure (.byte 0x55) s = some ⟨.syncTimeout, false, 0⟩) ∧
    (let s := rxNext .fatal (receiving .trailer1);
      rxAnswers s .fatal [] [] ∧ s.dec ≠ .idle ∧ s.op = .recv ∧ s.dec ≠ .sync ∧
      decodeFailure .fatal s = some ⟨.channelError, true, 8⟩) := by
  simp only [rxAnswers]; decide

theorem wit_fatal :
    let s := rxNext .fatal (awaiting .lenHi);
    rxAnswers s .fatal [] [] ∧ s.dec ≠ .idle ∧ s.op = .send := by
  simp only [rxAnswers]; decide

/-- RecoverableFailureConsumesAnAttempt: with an attempt left, and in the last one. -/
theorem wit_recoverable :
    (let s := rxNext .timeout (awaiting .sync);
      rxAnswers s .timeout [] [] ∧ s.dec ≠ .idle ∧ s.busy = true ∧ s.op = .send ∧
      s.sess = .awaitingReply ∧ 0 < s.syncMax.toNat ∧ s.syncCnt < s.syncMax ∧
      decodeFailure .timeout s = some ⟨.channelError, false, 1⟩ ∧ s.attempts < s.ackMax) ∧
    (let s := rxNext (.byte 0x00) { awaiting .msgId with ackMax := 1 };
      rxAnswers s (.byte 0x00) [] [] ∧ s.dec ≠ .idle ∧ s.busy = true ∧ s.op = .send ∧
      s.sess = .awaitingReply ∧ 0 < s.syncMax.toNat ∧ s.dec ≠ .sync ∧
      decodeFailure (.byte 0x00) s = some ⟨.invalidLength, false, 0⟩ ∧ s.ackMax ≤ s.attempts) := by
  simp only [rxAnswers]; decide

theorem wit_write_error :
    txAnswers (txNext .writeErr sending) .writeErr [] [] ∧ (txNext .writeErr sending).dec = .idle := by
  simp only [txAnswers]; decide

/-- WriteOkStartsTheWait: with attempts to make, with ACK_MAX = 0, and with SYNC_MAX = 0. -/
theorem wit_write_ok :
    (let s := txNext .writeOk sending;
      txAnswers s .writeOk [] [] ∧ s.dec = .idle ∧ s.busy = true ∧ s.sess = .sending ∧ s.op = .send ∧
      s.attempts = 0 ∧ 0 < s.ackMax.toNat ∧ 0 < s.syncMax.toNat ∧
      memReadBytes s.mem 0x40000 s.frameLen.toNat =
        some [0xA0, 0xA1, 0x00, 0x03, 0x09, 0x02, 0x01, 0x0A, 0x0D, 0x0A]) ∧
    ({ txNext .writeOk sending with ackMax := 0 } : State).ackMax.toNat = 0 ∧
    (let s : State := { txNext .writeOk sending with syncMax := 0 };
      txAnswers s .writeOk [] [] ∧ 0 < s.ackMax.toNat ∧ s.syncMax.toNat = 0) := by
  simp only [txAnswers]; decide

/-- A RECV in PAYLOAD with one byte stored and one to come, which RXCH answers next. -/
def midPayload : State :=
  rxNext (.byte 0x01)
    { receiving .payload with
      syncCnt := 2, syncDisc := 0, prev := 0xA1, prevValid := true, rxId := 0x09, rxLenf := 3,
      rxCount := 1, ckCalc := 0x0B, mem := [(0x10000, 0x02), (0x10001, 0x01), (0x20000, 0x02)] }

theorem wit_control_mid : ControlInv midPayload := by constructor <;> decide
theorem wit_parser_mid : ParserInv midPayload := by constructor <;> decide
theorem wit_checksum_mid : ChecksumInv midPayload := fun _ => ⟨[0x02], by decide, by decide⟩
theorem wit_memory_mid : MemoryInv midPayload := by
  refine ⟨by decide, fun c hc => ?_⟩
  simp only [midPayload, rxNext, List.mem_cons, List.not_mem_nil, or_false] at hc
  rcases hc with rfl | rfl | rfl
  · exact ⟨.txbuf, rfl⟩
  · exact ⟨.txbuf, rfl⟩
  · exact ⟨.rxbuf, rfl⟩
theorem wit_frame_mid : FrameInv midPayload := ⟨⟨[], rfl⟩, fun h => by cases h⟩

/-- EveryStepKeepsControl, TheParser, TheChecksum, Memory and TheFrame: a step from `midPayload`. -/
theorem wit_every_step : answers (step midPayload) := ⟨_, rfl⟩

theorem wit_control_sending : ControlInv (txNext .writeOk sending) := by constructor <;> decide
theorem wit_parser_sending : ParserInv (txNext .writeOk sending) := by constructor <;> decide
theorem wit_frame_sending : FrameInv (txNext .writeOk sending) :=
  ⟨⟨[0xA0, 0xA1, 0x00, 0x03, 0x09, 0x02, 0x01, 0x0A, 0x0D, 0x0A], by decide⟩,
    fun _ => ⟨by decide, [0x02, 0x01], by decide, by decide⟩⟩

/-- SessionTransitionsAreTheListed and ChannelIsWrittenOncePerSend: the step of a WriteOk. -/
theorem wit_session :
    answers (step (txNext .writeOk sending)) ∧ ∀ rest, (txNext .writeOk sending).sched ≠ .reset :: rest :=
  ⟨⟨_, rfl⟩, fun rest h => by cases h⟩

/-- A SEND in its last attempt, at the last byte of a reply of class `k`. -/
def lastByte (id : Byte) : State :=
  rxNext (.byte 0x0A)
    { awaiting .trailer1 with
      ackMax := 1, syncCnt := 2, prev := 0xA1, prevValid := true, rxId := id, rxLenf := 2, rxCount := 1,
      trl0 := 0x0D, mem := [(0x20000, 0x09)] }

theorem wit_control_last : ControlInv (lastByte 0x84) := by constructor <;> decide
theorem wit_parser_last : ParserInv (lastByte 0x84) := by constructor <;> decide

/-- AttemptsAreCounted: a reply that ends NACKED and one that ends EXHAUSTED; a WriteErr ends FAILED. -/
theorem wit_attempts :
    (lastByte 0x84).sess.terminal = false ∧ (lastByte 0x84).busy = true ∧
    (nextOf (step (lastByte 0x84))).map (·.sess) = some .nacked ∧
    (nextOf (step (lastByte 0x09))).map (·.sess) = some .exhausted ∧
    (nextOf (step (txNext .writeErr sending))).map (·.sess) = some .failed ∧
    (nextOf (step { lastByte 0x84 with rxQ := [.fatal] })).map (·.sess) = some .failed := by decide

/-- OperationsEndWithinTheirBound: the commands answer, a step with an answer of each channel, and a step of a busy state without an answer. -/
theorem wit_bound :
    answers (exec .encode loaded) ∧
    answers (exec .recv loaded) ∧ loaded.dec = .idle ∧ answers (exec .send loaded) ∧
    (∃ e rest es, rxAnswers midPayload e rest es) ∧
    (∃ a rest as, txAnswers (txNext .writeOk sending) a rest as) ∧
    midPayload.busy = true ∧ answers (step { midPayload with sched := [] }) :=
  ⟨⟨_, rfl⟩, ⟨_, rfl⟩, rfl, ⟨_, rfl⟩, ⟨_, _, _, rfl, rfl, rfl⟩, ⟨_, _, _, rfl, rfl, rfl⟩, rfl, ⟨_, rfl⟩⟩

/-- The host starts a RECV and RXCH answers with the bytes `z` and then `tail`. -/
def recvOf (z tail : List Byte) : State :=
  { loaded with
    sched := .host :: List.replicate z.length .rxch, hostQ := [.cmd 2],
    rxQ := z.map .byte ++ tail.map .byte }

theorem wit_recv_of (z tail : List Byte) : recvThenBytes z (recvOf z tail) :=
  ⟨rfl, rfl, ⟨[], rfl⟩, ⟨_, rfl⟩, ⟨[], by simp [recvOf]⟩⟩

/-- RecvDecodesAFrameBehindNoise: X2, whose noise ends in A0; the budget may cover exactly the noise and the marker (X4a). -/
theorem wit_noise :
    ([0x02, 0x01] : List Byte).length ≤ 65534 ∧ noMarker [0x55, 0xA0, 0x00, 0xA0] = true ∧
    ([0x55, 0xA0, 0x00, 0xA0] : List Byte).length + 2 ≤ loaded.syncMax.toNat ∧
    recvThenBytes ([0x55, 0xA0, 0x00, 0xA0] ++ encodeFrame 0x83 [0x09])
      (recvOf ([0x55, 0xA0, 0x00, 0xA0] ++ encodeFrame 0x83 [0x09]) []) :=
  ⟨by decide, by decide, by decide, wit_recv_of _ _⟩

/-- RecvGivesUpWithoutAMarker: 32 bytes for SYNC_MAX = 32. -/
theorem wit_gives_up :
    noMarker (List.replicate 32 0xA0) = true ∧
    (List.replicate 32 (0xA0 : Byte)).length = loaded.syncMax.toNat ∧
    recvThenBytes (List.replicate 32 0xA0) (recvOf (List.replicate 32 0xA0) [0xA1]) :=
  ⟨by decide, by decide, wit_recv_of _ _⟩

/-- RecvRejectsACorruptedFrame: X8 and X9. -/
theorem wit_corrupted :
    ([0x09] : List Byte).length ≤ 65534 ∧ 2 ≤ loaded.syncMax.toNat ∧ (0x8B : Byte) ≠ xorFold 0x83 [0x09] ∧
    recvThenBytes ((encodeFrame 0x83 [0x09]).take 6 ++ [0x8B])
      (recvOf ((encodeFrame 0x83 [0x09]).take 6 ++ [0x8B]) [0x0D, 0x0A]) ∧
    (0x8A : Byte) = xorFold 0x83 [0x09] ∧ ¬ ((0x0D : Byte) = 0x0D ∧ (0x0B : Byte) = 0x0A) ∧
    recvThenBytes ((encodeFrame 0x83 [0x09]).take 6 ++ [0x8A, 0x0D, 0x0B])
      (recvOf ((encodeFrame 0x83 [0x09]).take 6 ++ [0x8A, 0x0D, 0x0B]) []) :=
  ⟨by decide, by decide, by decide, wit_recv_of _ _, by decide, by decide, wit_recv_of _ _⟩

end Sys2Proof.Tests
end

/-! PROOFS. Settle comes to rest, and the host's turn runs its next access (R9, R46, R68, R75, R210). -/

namespace Sys2Proof.Machine

/-- Which input-free transition applies does not depend on the byte request. -/
theorem settleStep_withRxpend_eq_none (b : Bool) (s : State) :
    settleStep { s with rxpend := b } = none ↔ settleStep s = none := by
  rw [settleStep_eq_none, settleStep_eq_none]

/-- Settle leaves a state to which no input-free transition applies (R9): its loop has come to rest, and the byte request that it then brings up to date plays no part in a transition. -/
theorem settleStep_settle (s : State) : settleStep (settle s) = none :=
  (settleStep_withRxpend_eq_none _ _).2 (settleLoop_rest s)

/-- Settle makes the byte request outstanding where a decode runs, and only there (R46, R68). -/
theorem settle_rxpend_iff (s : State) : (settle s).rxpend = true ↔ (settle s).dec ≠ .idle := by
  have hpend : (settle s).rxpend = ((settle s).dec != .idle) := rfl
  rw [hpend, bne_iff_ne]

/-- Settles O29: the loop's fuel is enough for it to come to rest, and the byte request is brought up to date after it. -/
theorem settleComesToRest : Obligations.SettleComesToRest :=
  fun s => ⟨settleStep_settle s, settle_rxpend_iff s⟩

/-- Settles O30, by the rule for a step in which the host issues an access. -/
theorem hostTurnRunsTheDecodedInstruction : Obligations.HostTurnRunsTheDecodedInstruction :=
  fun _ _ _ _ hsched hqueue => step_host hsched hqueue

end Sys2Proof.Machine

/-! PROOFS. The invariants between an event and the rest of Settle, and that every step keeps the control invariant (R9, R24, R26, R27, R46, R143, R184, R240). -/

namespace Sys2Proof.Machine

/-- What every transition of Settle and the closing update of the byte request keep, Settle keeps (R9). -/
theorem settle_induct (P : State → Prop) (hstep : ∀ s t, P s → settleStep s = some t → P t)
    (hpend : ∀ s b, P s → P { s with rxpend := b }) {s : State} (h : P s) : P (settle s) :=
  hpend _ _ (settleLoop_induct P hstep _ s h)

/-- The sync budget check is a decode's end with SYNC_TIMEOUT (R143). -/
theorem syncTimeoutAct_decodeEnd (s : State) :
    DecodeEnd ⟨.syncTimeout, false, 0⟩ { s with syncDisc := s.syncCnt } (syncTimeoutAct s) := by
  unfold syncTimeoutAct
  rcases endDecode_cases .syncTimeout false 0 { s with syncDisc := s.syncCnt } with
    ⟨hop, h⟩ | ⟨-, hc, -⟩ | ⟨-, hc, -⟩ | ⟨hop, hnf, -, h⟩
  · rw [h]; exact .recv hop
  · cases hc
  · cases hc
  · rw [h]; exact .goesOn hop hnf

/-- A decode's end leaves the decoder idle (R141). -/
theorem decodeEnd_dec {o : ResultReg} {w u : State} (h : DecodeEnd o w u) : u.dec = .idle := by
  cases h <;> rfl

/-- A decode's end keeps the session state or takes it to a terminal one (R185, R188, R189). -/
theorem decodeEnd_sess {o : ResultReg} {w u : State} (h : DecodeEnd o w u) :
    u.sess = w.sess ∨ u.sess.terminal = true := by
  cases h with
  | recv | goesOn => exact .inl rfl
  | fatal | nack | ack => exact .inr rfl

/-- An event that ends the decode finds the decoder in the phase it was in. -/
theorem endsFrom_dec {v w : State} {e : RxEvent} {o : ResultReg} (h : EndsFrom v e w o) :
    w.dec = v.dec := by
  cases h with
  | timeout | fatal => split <;> rfl
  | _ => rfl

/- ## Control -/

/-- What the control invariant speaks of beside the decoder phase and the byte request. -/
structure SameControl (s t : State) : Prop where
  busy : t.busy = s.busy
  op : t.op = s.op
  sess : t.sess = s.sess
  result : t.result = s.result
  txpend : t.txpend = s.txpend

/-- An event that ends the decode has changed nothing of the control when the end begins. -/
theorem endsFrom_sameControl {v w : State} {e : RxEvent} {o : ResultReg} (h : EndsFrom v e w o) :
    SameControl v w := by
  cases h with
  | timeout | fatal => split <;> constructor <;> rfl
  | _ => constructor <;> rfl

/-- For the control, an answer of RXCH lets the decode go on or ends it (R144 to R158). -/
theorem rxStep_control {v u : State} {e : RxEvent} (h : RxStep v e u) (hd : v.dec ≠ .idle) :
    (u.dec ≠ .idle ∧ SameControl v u) ∨
    ∃ w o, w.dec ≠ .idle ∧ SameControl v w ∧ DecodeEnd o w u := by
  cases h with
  | idle b hi => exact absurd hi hd
  | scan => exact .inl ⟨hd, rfl, rfl, rfl, rfl, rfl⟩
  | payload b hp =>
    refine .inl ?_
    unfold payloadByte
    dsimp only
    split
    · exact ⟨Phase.noConfusion, rfl, rfl, rfl, rfl, rfl⟩
    · exact ⟨hd, rfl, rfl, rfl, rfl, rfl⟩
  | ends he hend =>
    exact .inr ⟨_, _, by rwa [endsFrom_dec he], endsFrom_sameControl he, hend⟩
  | _ => exact .inl ⟨Phase.noConfusion, rfl, rfl, rfl, rfl, rfl⟩

/-- An answer to a running decode keeps the session state or takes it to a terminal one. -/
theorem rxStep_sess {v u : State} {e : RxEvent} (h : RxStep v e u) (hd : v.dec ≠ .idle) :
    u.sess = v.sess ∨ u.sess.terminal = true := by
  rcases rxStep_control h hd with ⟨-, hsame⟩ | ⟨w, o, -, hsame, hend⟩
  · exact .inl hsame.sess
  · exact (decodeEnd_sess hend).imp_left (·.trans hsame.sess)

/-- The control invariant up to Settle: a session that awaits its reply may stand between two attempts, and the byte request is not yet brought up to date (R9, R184). -/
structure ControlUpToSettle (s : State) : Prop where
  tx_request : s.txpend = (s.sess == .sending)
  decode_runs : s.dec ≠ .idle → s.busy = true ∧ (s.op = .recv ∨ s.op = .send ∧ s.sess = .awaitingReply)
  sending_runs : s.sess = .sending → s.busy = true ∧ s.dec = .idle
  awaiting_busy : s.sess = .awaitingReply → s.busy = true
  busy_waits : s.busy = true → s.dec ≠ .idle ∨ s.sess = .sending ∨ s.sess = .awaitingReply
  sess_of_send : s.op = .send ↔ s.sess ≠ .idle
  running_result : s.busy = true → s.result = .zero

theorem ControlInv.upToSettle {s : State} (h : ControlInv s) : ControlUpToSettle s :=
  { h with
    awaiting_busy := fun hs => (h.awaiting_runs hs).1
    busy_waits := fun hb => (h.busy_waits hb).imp_right .inl }

/-- The invariant holds of a block whose operation has ended, if the session agrees with OP (R231). -/
theorem ControlUpToSettle.of_ended {s : State} (hb : s.busy = false) (hd : s.dec = .idle)
    (ht : s.txpend = false) (hs : s.sess = .idle ∨ s.sess.terminal = true)
    (hop : s.op = .send ↔ s.sess ≠ .idle) : ControlUpToSettle s := by
  have hsend : s.sess ≠ .sending := fun h => by simp [h, Sess.terminal] at hs
  have hwait : s.sess ≠ .awaitingReply := fun h => by simp [h, Sess.terminal] at hs
  have hbusy : s.busy ≠ true := by simp [hb]
  exact {
    tx_request := by simp [ht, hsend]
    decode_runs := fun h => absurd hd h
    sending_runs := fun h => absurd h hsend
    awaiting_busy := fun h => absurd h hwait
    busy_waits := fun h => absurd h hbusy
    sess_of_send := hop
    running_result := fun h => absurd h hbusy }

/-- A decode that goes on keeps the control. -/
theorem ControlUpToSettle.of_goesOn {v u : State} (h : ControlUpToSettle v) (hv : v.dec ≠ .idle)
    (hu : u.dec ≠ .idle) (hsame : SameControl v u) : ControlUpToSettle u := by
  obtain ⟨hbusy, hop, hsess, hresult, htx⟩ := hsame
  constructor <;> simp only [hbusy, hop, hsess, hresult, htx]
  · exact h.tx_request
  · exact fun _ => h.decode_runs hv
  · exact fun hs => absurd (h.sending_runs hs).2 hv
  · exact h.awaiting_busy
  · exact fun _ => .inl hu
  · exact h.sess_of_send
  · exact h.running_result

/-- The end of a running decode keeps the control: a RECV has no session, and a SEND awaits its reply (R141, R185). -/
theorem ControlUpToSettle.of_decodeEnd {o : ResultReg} {w u : State} (h : ControlUpToSettle w)
    (hd : w.dec ≠ .idle) (hend : DecodeEnd o w u) : ControlUpToSettle u := by
  obtain ⟨hbusy, hrun⟩ := h.decode_runs hd
  have hsend : w.op ≠ .recv → w.op = .send ∧ w.sess = .awaitingReply := hrun.resolve_left
  cases hend with
  | recv hop =>
    have hsess : w.sess = .idle := by
      by_contra hne
      have := h.sess_of_send.2 hne
      rw [hop] at this; cases this
    exact .of_ended rfl rfl rfl (.inl hsess) h.sess_of_send
  | fatal hop | nack hop | ack hop =>
    exact .of_ended rfl rfl rfl (.inr rfl) ⟨fun _ => Sess.noConfusion, fun _ => (hsend hop).1⟩
  | goesOn hop =>
    obtain ⟨-, hsess⟩ := hsend hop
    exact { h with
      decode_runs := fun hne => absurd rfl hne
      sending_runs := fun hs => ⟨hbusy, rfl⟩
      busy_waits := fun _ => .inr (.inr hsess) }

/-- An input-free transition keeps the control (R143, R184). -/
theorem ControlUpToSettle.of_settleStep {s t : State} (h : ControlUpToSettle s)
    (ht : settleStep s = some t) : ControlUpToSettle t := by
  rcases settleStep_cases ht with ⟨hd, -, rfl⟩ | ⟨-, hs, hd, -, rfl⟩ | ⟨hb, hs, hd, -, rfl⟩
  · have hrun : s.dec ≠ .idle := by rw [hd]; exact Phase.noConfusion
    have hw : ControlUpToSettle { s with syncDisc := s.syncCnt } := { h with }
    exact hw.of_decodeEnd hrun (syncTimeoutAct_decodeEnd s)
  · have hop : s.op = .send := h.sess_of_send.2 (by rw [hs]; exact Sess.noConfusion)
    exact .of_ended rfl hd rfl (.inr rfl) ⟨fun _ => Sess.noConfusion, fun _ => hop⟩
  · have hop : s.op = .send := h.sess_of_send.2 (by rw [hs]; exact Sess.noConfusion)
    exact { h with
      decode_runs := fun _ => ⟨hb, .inr ⟨hop, hs⟩⟩
      sending_runs := fun hc => by rw [show s.sess = .sending from hc] at hs; cases hs
      busy_waits := fun _ => .inl Phase.noConfusion }

/-- Settle turns the invariant up to Settle into the control invariant: at rest no session stands between two attempts, and the byte request is up to date. -/
theorem ControlUpToSettle.settle {s : State} (h : ControlUpToSettle s) : ControlInv (settle s) := by
  have ht : ControlUpToSettle (Machine.settle s) :=
    settle_induct ControlUpToSettle (fun _ _ h => h.of_settleStep) (fun _ _ h => { h with }) h
  obtain ⟨-, hrest⟩ := (settleStep_eq_none _).1 (settleStep_settle s)
  have hawait (hs : (Machine.settle s).sess = .awaitingReply) : (Machine.settle s).dec ≠ .idle :=
    fun hd => hrest ⟨ht.awaiting_busy hs, hs, hd⟩
  exact { ht with
    rx_request := rfl
    awaiting_runs := fun hs => ⟨ht.awaiting_busy hs, hawait hs⟩
    busy_waits := fun hb => by
      rcases ht.busy_waits hb with hd | hs | hs
      · exact .inl hd
      · exact .inr hs
      · exact .inl (hawait hs) }

/-- While no operation runs, no decode does, and no session waits for the channel (R24). -/
theorem ControlInv.of_not_busy {s : State} (h : ControlInv s) (hb : s.busy = false) :
    s.dec = .idle ∧ s.sess ≠ .sending ∧ s.sess ≠ .awaitingReply := by
  refine ⟨?_, fun hs => ?_, fun hs => ?_⟩
  · by_contra hd; rw [(h.decode_runs hd).1] at hb; cases hb
  · rw [(h.sending_runs hs).1] at hb; cases hb
  · rw [(h.awaiting_runs hs).1] at hb; cases hb

/-- While no operation runs, no frame is presented (R46). -/
theorem ControlInv.txpend_of_not_busy {s : State} (h : ControlInv s) (hb : s.busy = false) :
    s.txpend = false := by
  rw [h.tx_request]; simpa using (h.of_not_busy hb).2.1

/-- RXCH is asked for bytes only while a decode runs (R68). -/
theorem ControlInv.decodes_of_rxAnswers {s : State} {e : RxEvent} {rest : List Agent}
    {es : List RxEvent} (h : ControlInv s) (ha : rxAnswers s e rest es) : s.dec ≠ .idle := by
  have hp : s.rxpend = true := ha.2.2
  rw [h.rx_request] at hp; simpa using hp

/-- TXCH is asked for a frame write only by a session in SENDING (R70). -/
theorem ControlInv.sending_of_txAnswers {s : State} {a : TxAnswer} {rest : List Agent}
    {as : List TxAnswer} (h : ControlInv s) (ha : txAnswers s a rest as) : s.sess = .sending := by
  have hp : s.txpend = true := ha.2.2
  rw [h.tx_request] at hp; simpa using hp

theorem controlInv_reset : ControlInv .reset := by constructor <;> decide

/-- A host access keeps the control (R210 to R215). -/
theorem ControlInv.of_hostStep {s t : State} (h : ControlInv s) (ht : HostStep s t) :
    ControlInv t := by
  cases ht with
  | read | syncMax | ackMax | txId | txLen | byteWrite => exact { h with }
  | encode p hb =>
    obtain ⟨hd, -⟩ := h.of_not_busy hb
    have hended : ControlUpToSettle (finish .ok false 0 (built .encode p s)) :=
      .of_ended rfl hd rfl (.inl rfl) (by simp [built])
    exact hended.settle
  | recv hb =>
    have htx := h.txpend_of_not_busy hb
    exact ControlUpToSettle.settle {
      tx_request := htx
      decode_runs := fun _ => ⟨rfl, .inl rfl⟩
      sending_runs := nofun
      awaiting_busy := fun _ => rfl
      busy_waits := fun _ => .inl Phase.noConfusion
      sess_of_send := by simp
      running_result := fun _ => rfl }
  | send p hb =>
    obtain ⟨hd, -⟩ := h.of_not_busy hb
    exact ControlUpToSettle.settle {
      tx_request := rfl
      decode_runs := fun hne => absurd hd hne
      sending_runs := fun _ => ⟨rfl, hd⟩
      awaiting_busy := fun _ => rfl
      busy_waits := fun _ => .inr (.inl rfl)
      sess_of_send := by simp [built]
      running_result := fun _ => rfl }

/-- An answer of TXCH to the presented frame keeps the control (R181, R182). -/
theorem ControlInv.of_blockTx {s : State} (a : TxAnswer) (h : ControlInv s)
    (hs : s.sess = .sending) : ControlUpToSettle (blockTx a s) := by
  obtain ⟨hb, hd⟩ := h.sending_runs hs
  have hop : s.op = .send := h.sess_of_send.2 (by rw [hs]; exact Sess.noConfusion)
  cases a with
  | writeErr => exact .of_ended rfl hd rfl (.inr rfl) ⟨fun _ => Sess.noConfusion, fun _ => hop⟩
  | writeOk =>
    exact { h with
      tx_request := rfl
      decode_runs := fun hne => absurd hd hne
      sending_runs := nofun
      awaiting_busy := fun _ => hb
      busy_waits := fun _ => .inr (.inr rfl)
      sess_of_send := ⟨fun _ => Sess.noConfusion, fun _ => hop⟩ }

/-- An answer of RXCH to a running decode keeps the control, up to Settle (R144 to R158). -/
theorem ControlUpToSettle.of_rxStep {v u : State} {e : RxEvent} (h : ControlUpToSettle v)
    (hd : v.dec ≠ .idle) (hu : RxStep v e u) : ControlUpToSettle u := by
  rcases rxStep_control hu hd with ⟨hgo, hsame⟩ | ⟨w, o, hw, hsame, hend⟩
  · exact h.of_goesOn hd hgo hsame
  · exact (h.of_goesOn hd hw hsame).of_decodeEnd hw hend

/-- Settles O46, turn by turn: each event keeps the control up to Settle, and Settle brings back the rest. -/
theorem everyStepKeepsControl : Obligations.EveryStepKeepsControl := by
  intro s t h hstep
  rcases step_cases hstep with ⟨rest, -, rfl⟩ | ⟨r, rest, rs, -, -, hx⟩ | ⟨a, rest, as, ha, rfl⟩ |
    ⟨e, rest, es, u, ha, hu, rfl⟩ | ⟨rfl, -⟩
  · exact { controlInv_reset with }
  · have hv : ControlInv { s with sched := rest, hostQ := rs } := { h with }
    exact hv.of_hostStep (exec_decodeHost_next hx)
  · have hv : ControlInv { s with sched := rest, txQ := as } := { h with }
    exact (hv.of_blockTx a (h.sending_of_txAnswers ha)).settle
  · have hv : ControlUpToSettle (rxTaken s rest es) := { h.upToSettle with }
    exact (hv.of_rxStep (h.decodes_of_rxAnswers ha) hu).settle
  · exact { h with }

end Sys2Proof.Machine

/-! PROOFS. Every step keeps the counter bounds and what each decoder phase knows (R41, R44, R52, R143 to R153, R184). -/

namespace Sys2Proof.Machine

/-- The part of the parser invariant that holds whatever the decoder does, up to Settle: a session that has not started an attempt has still to count it (R184). -/
structure CounterBounds (s : State) : Prop where
  count_bound : s.rxCount.toNat ≤ 65534
  frame_bound : s.frameLen.toNat ≤ 65542
  attempt_bound : s.sess = .awaitingReply → s.attempts ≤ s.ackMax
  no_attempt_yet : s.sess = .sending → s.attempts = 0

/-- The parser invariant up to Settle: a scan may have used its budget, and a session between two attempts has counted only those that started (R143, R184). -/
structure ParserUpToSettle (s : State) : Prop extends CounterBounds s where
  scan_budget : s.dec ≠ .idle → s.syncCnt ≤ s.syncMax
  scan_fresh : s.dec = .sync → s.syncDisc = 0 ∧ s.prevValid = (s.syncCnt != 0)
  marker_seen : s.dec ≠ .idle → s.dec ≠ .sync →
    2 ≤ s.syncCnt.toNat ∧ s.syncDisc = s.syncCnt - 2 ∧ s.prevValid = true ∧ s.prev = sync2
  no_payload_yet : s.dec = .sync ∨ s.dec = .lenHi ∨ s.dec = .lenLo ∨ s.dec = .msgId → s.rxCount = 0
  payload_open : s.dec = .payload → s.rxCount.toNat + 1 < s.rxLenf.toNat
  payload_done : s.dec = .checksum ∨ s.dec = .trailer0 ∨ s.dec = .trailer1 →
    s.rxCount.toNat + 1 = s.rxLenf.toNat
  attempt_counted : s.sess = .awaitingReply → s.dec ≠ .idle → 1 ≤ s.attempts.toNat

theorem ParserInv.upToSettle {s : State} (h : ParserInv s) : ParserUpToSettle s :=
  { h with
    scan_fresh := fun hd => (h.scan_goes_on hd).2
    attempt_bound := fun hs => (h.attempt_counted hs).2
    attempt_counted := fun hs _ => (h.attempt_counted hs).1 }

/-- With the decoder idle, only the counters are left to bound. -/
theorem ParserUpToSettle.of_idle {s : State} (h : CounterBounds s) (hd : s.dec = .idle) :
    ParserUpToSettle s := by
  constructor
  case toCounterBounds => exact h
  all_goals simp [hd]

/-- A decode starts with a fresh scan, and inside SEND with its attempt counted (R142, R184). -/
theorem ParserUpToSettle.of_decodeStart {s : State} (h : CounterBounds s)
    (ha : s.sess = .awaitingReply → 1 ≤ s.attempts.toNat) : ParserUpToSettle (decodeStart s) where
  count_bound := Nat.zero_le _
  frame_bound := h.frame_bound
  attempt_bound := h.attempt_bound
  no_attempt_yet := h.no_attempt_yet
  scan_budget _ := Nat.zero_le _
  scan_fresh _ := ⟨rfl, rfl⟩
  marker_seen _ hs := absurd rfl hs
  no_payload_yet _ := rfl
  payload_open hd := by cases hd
  payload_done hd := by simp at hd
  attempt_counted hs _ := ha hs

/-- An event that ends the decode leaves the counters in their bounds. -/
theorem CounterBounds.of_endsFrom {v w : State} {e : RxEvent} {o : ResultReg}
    (h : CounterBounds v) (he : EndsFrom v e w o) : CounterBounds w := by
  cases he with
  | timeout | fatal => split <;> exact { h with }
  | _ => exact { h with }

/-- The end of a decode leaves the counters in their bounds and the decoder idle (R141). -/
theorem ParserUpToSettle.of_decodeEnd {o : ResultReg} {w u : State} (h : CounterBounds w)
    (hend : DecodeEnd o w u) : ParserUpToSettle u := by
  refine .of_idle ?_ (decodeEnd_dec hend)
  cases hend with
  | recv | goesOn => exact { h with }
  | fatal | nack | ack =>
    exact { h with
      attempt_bound := nofun
      no_attempt_yet := nofun }

/-- A byte that does not complete the marker uses up one of the scan's budget (R144). -/
theorem ParserUpToSettle.of_scan {v : State} (b : Byte) (h : ParserInv v) (hd : v.dec = .sync) :
    ParserUpToSettle { v with syncCnt := v.syncCnt + 1, prev := b, prevValid := true } := by
  obtain ⟨hlt, hdisc, -⟩ := h.scan_goes_on hd
  have hsucc := toNat_succ_of_lt hlt
  have hle : v.syncCnt + 1 ≤ v.syncMax := by
    rw [BitVec.le_def, hsucc]; exact BitVec.lt_def.1 hlt
  have hne : v.syncCnt + 1 ≠ 0 := by
    intro h0; rw [h0] at hsucc; simp at hsucc
  exact { h.upToSettle with
    scan_budget := fun _ => hle
    scan_fresh := fun _ => ⟨hdisc, by simpa using hne⟩
    marker_seen := fun _ hs => absurd hd hs }

/-- The byte that completes the marker is at least the second of its scan (R144). -/
theorem ParserUpToSettle.of_marker {v : State} {b : Byte} (h : ParserInv v) (hd : v.dec = .sync)
    (hm : markerMatch v b = true) :
    ParserUpToSettle { v with
      syncCnt := v.syncCnt + 1, prev := b, prevValid := true, syncDisc := v.syncCnt + 1 - 2,
      dec := .lenHi } := by
  obtain ⟨hlt, -, hvalid⟩ := h.scan_goes_on hd
  have hsucc := toNat_succ_of_lt hlt
  have hle : v.syncCnt + 1 ≤ v.syncMax := by
    rw [BitVec.le_def, hsucc]; exact BitVec.lt_def.1 hlt
  simp only [markerMatch, Bool.and_eq_true, beq_iff_eq, hvalid, bne_iff_ne] at hm
  obtain ⟨⟨hne, -⟩, hb⟩ := hm
  have hpos : v.syncCnt.toNat ≠ 0 := fun h0 => hne (BitVec.eq_of_toNat_eq h0)
  have htwo : 2 ≤ (v.syncCnt + 1).toNat := by omega
  exact { h.upToSettle with
    scan_budget := fun _ => hle
    scan_fresh := nofun
    marker_seen := fun _ _ => ⟨htwo, rfl, rfl, hb⟩
    no_payload_yet := fun _ => h.no_payload_yet (.inl hd)
    payload_open := nofun
    payload_done := fun hp => by simp at hp
    attempt_counted := fun hs _ => (h.attempt_counted hs).1 }

/-- What an answer leaves alone when the decode is past its scan and goes on (R148 to R156). -/
structure SamePastScan (v u : State) : Prop where
  syncMax : u.syncMax = v.syncMax
  syncCnt : u.syncCnt = v.syncCnt
  syncDisc : u.syncDisc = v.syncDisc
  prevValid : u.prevValid = v.prevValid
  prev : u.prev = v.prev
  frameLen : u.frameLen = v.frameLen
  sess : u.sess = v.sess
  attempts : u.attempts = v.attempts
  ackMax : u.ackMax = v.ackMax

/-- Past the scan only the payload's counter and length are left to look at. -/
theorem ParserUpToSettle.of_pastScan {v u : State} (h : ParserInv v) (hi : v.dec ≠ .idle)
    (hs : v.dec ≠ .sync) (hsame : SamePastScan v u) (hu : u.dec ≠ .sync)
    (hcount : u.rxCount.toNat ≤ 65534)
    (hnone : u.dec = .lenHi ∨ u.dec = .lenLo ∨ u.dec = .msgId → u.rxCount = 0)
    (hopen : u.dec = .payload → u.rxCount.toNat + 1 < u.rxLenf.toNat)
    (hdone : u.dec = .checksum ∨ u.dec = .trailer0 ∨ u.dec = .trailer1 →
      u.rxCount.toNat + 1 = u.rxLenf.toNat) : ParserUpToSettle u := by
  obtain ⟨hmax, hcnt, hdisc, hvalid, hprev, hlen, hsess, hatt, hack⟩ := hsame
  have hv := h.upToSettle
  constructor
  case toCounterBounds =>
    refine ⟨hcount, ?_, ?_, ?_⟩
    · rw [hlen]; exact hv.frame_bound
    · rw [hsess, hatt, hack]; exact hv.attempt_bound
    · rw [hsess, hatt]; exact hv.no_attempt_yet
  case scan_budget => rw [hcnt, hmax]; exact fun _ => hv.scan_budget hi
  case scan_fresh => exact fun hd => absurd hd hu
  case marker_seen => rw [hcnt, hdisc, hvalid, hprev]; exact fun _ _ => hv.marker_seen hi hs
  case no_payload_yet => exact fun hd => hnone (hd.resolve_left hu)
  case payload_open => exact hopen
  case payload_done => exact hdone
  case attempt_counted => rw [hsess, hatt]; exact fun hw _ => hv.attempt_counted hw hi

/-- A payload byte is counted, and the last one that RX_LENF announces ends the phase (R153). -/
theorem ParserUpToSettle.of_payloadByte {v : State} (b : Byte) (h : ParserInv v)
    (hd : v.dec = .payload) : ParserUpToSettle (payloadByte b v) := by
  have hopen := h.payload_open hd
  have hlen := v.rxLenf.isLt
  have hsucc : (v.rxCount + 1).toNat = v.rxCount.toNat + 1 := by
    rw [BitVec.toNat_add]; simp; omega
  have hpred : (v.rxLenf - 1).toNat = v.rxLenf.toNat - 1 := by bv_omega
  have hlast : v.rxCount + 1 = v.rxLenf - 1 ↔ v.rxCount.toNat + 2 = v.rxLenf.toNat := by
    rw [← BitVec.toNat_inj, hsucc, hpred]; omega
  have hcount : (v.rxCount + 1).toNat ≤ 65534 := by omega
  unfold payloadByte
  dsimp only
  split
  · next hl =>
    refine .of_pastScan h (by simp [hd]) (by simp [hd]) (by constructor <;> rfl)
      Phase.noConfusion hcount (by simp) nofun fun _ => ?_
    have := hlast.1 hl
    simp only [hsucc]; omega
  · next hl =>
    refine .of_pastScan h (by simp [hd]) (by simp [hd]) (by constructor <;> rfl)
      (by simp [hd]) hcount (by simp [hd]) (fun _ => ?_) (by simp [hd])
    have := mt hlast.2 hl
    simp only [hsucc]; omega

/-- An answer of RXCH keeps the parser's bounds and what its phases know, up to Settle. -/
theorem ParserUpToSettle.of_rxStep {v u : State} {e : RxEvent} (h : ParserInv v)
    (hu : RxStep v e u) : ParserUpToSettle u := by
  have hcount := h.count_bound
  cases hu with
  | idle => exact h.upToSettle
  | scan b hd => exact .of_scan b h hd
  | marker b hd hm => exact .of_marker h hd hm
  | lenHi b hd | lenLo b hd =>
    have hzero := h.no_payload_yet (by simp [hd])
    exact .of_pastScan h (by simp [hd]) (by simp [hd]) (by constructor <;> rfl) Phase.noConfusion
      hcount (fun _ => hzero) nofun (fun hp => by simp [lenHiByte, lenLoByte] at hp)
  | idNoPayload b hd hlen =>
    have hzero := h.no_payload_yet (by simp [hd])
    exact .of_pastScan h (by simp [hd]) (by simp [hd]) (by constructor <;> rfl) Phase.noConfusion
      hcount (by simp) nofun (fun _ => by simp [hzero, hlen])
  | idPayload b hd hne0 hne1 =>
    have hzero := h.no_payload_yet (by simp [hd])
    have hlen : 1 < v.rxLenf.toNat := by bv_omega
    exact .of_pastScan h (by simp [hd]) (by simp [hd]) (by constructor <;> rfl) Phase.noConfusion
      hcount (by simp) (fun _ => by simpa [hzero] using hlen) (by simp)
  | payload b hd => exact .of_payloadByte b h hd
  | checksum b hd | trailer0 b hd =>
    have hdone := h.payload_done (by simp [hd])
    exact .of_pastScan h (by simp [hd]) (by simp [hd]) (by constructor <;> rfl) Phase.noConfusion
      hcount (by simp [trailer0Byte]) nofun (fun _ => hdone)
  | ends he hend => exact .of_decodeEnd (h.upToSettle.toCounterBounds.of_endsFrom he) hend

/-- An input-free transition keeps the parser's bounds (R143, R184). -/
theorem ParserUpToSettle.of_settleStep {s t : State} (h : ParserUpToSettle s)
    (ht : settleStep s = some t) : ParserUpToSettle t := by
  have hc := h.toCounterBounds
  rcases settleStep_cases ht with ⟨-, -, rfl⟩ | ⟨-, -, hd, -, rfl⟩ | ⟨-, hs, -, ha, rfl⟩
  · have hw : CounterBounds { s with syncDisc := s.syncCnt } := { hc with }
    exact .of_decodeEnd hw (syncTimeoutAct_decodeEnd s)
  · exact .of_idle { hc with
      attempt_bound := nofun
      no_attempt_yet := nofun } hd
  · have hsucc := toNat_succ_of_lt ha
    have hle : s.attempts + 1 ≤ s.ackMax := by
      rw [BitVec.le_def, hsucc]; exact BitVec.lt_def.1 ha
    have hw : CounterBounds { s with attempts := s.attempts + 1 } :=
      { hc with
        attempt_bound := fun _ => hle
        no_attempt_yet := fun hx => by rw [show s.sess = .sending from hx] at hs; cases hs }
    exact .of_decodeStart hw fun _ => by simp only [hsucc]; omega

/-- Settle turns the invariant up to Settle into the parser invariant: at rest a scan has budget left, and a session that awaits its reply has a decode running. -/
theorem ParserUpToSettle.settle {s : State} (h : ParserUpToSettle s)
    (hc : ControlInv (settle s)) : ParserInv (settle s) := by
  have ht : ParserUpToSettle (Machine.settle s) :=
    settle_induct ParserUpToSettle (fun _ _ h => h.of_settleStep) (fun _ _ h => { h with }) h
  obtain ⟨hrest, -⟩ := (settleStep_eq_none _).1 (settleStep_settle s)
  exact { ht with
    scan_goes_on := fun hd => ⟨BitVec.not_le.1 fun hle => hrest ⟨hd, hle⟩, ht.scan_fresh hd⟩
    attempt_counted := fun hs => ⟨ht.attempt_counted hs (hc.awaiting_runs hs).2, ht.attempt_bound hs⟩ }

/-- The parser invariant with the decoder idle and no session waiting for the channel. -/
theorem ParserInv.of_not_busy {s : State} (hd : s.dec = .idle) (hs : s.sess ≠ .sending)
    (ha : s.sess ≠ .awaitingReply) (hc : s.rxCount.toNat ≤ 65534)
    (hf : s.frameLen.toNat ≤ 65542) : ParserInv s := by
  constructor <;> simp [hd, hs, ha, hc, hf]

/-- FRAME_LEN of a frame that was built is in its bound (R45, R126). -/
theorem built_frameLen_le (o : OpCode) (p : List Byte) {s : State} (hl : s.txLen ≠ 65535) :
    (built o p s).frameLen.toNat ≤ 65542 := by
  rw [built_frameLen hl]; bv_omega

/-- A host access keeps the parser invariant (R210 to R215). -/
theorem ParserInv.of_hostStep {s t : State} (h : ParserInv s) (hc : ControlInv s)
    (ht : HostStep s t) : ParserInv t := by
  have htc := hc.of_hostStep ht
  have hcount := h.count_bound
  cases ht with
  | read => exact { h with }
  | syncMax d hb | ackMax d hb | txId v hb | txLen v hb | byteWrite a v hb =>
    obtain ⟨hd, hs, ha⟩ := hc.of_not_busy hb
    exact .of_not_busy hd hs ha hcount h.frame_bound
  | encode p hb hl =>
    obtain ⟨hd, -⟩ := hc.of_not_busy hb
    have hw : CounterBounds (finish .ok false 0 (built .encode p s)) :=
      ⟨hcount, built_frameLen_le .encode p hl, nofun, nofun⟩
    exact (ParserUpToSettle.of_idle hw hd).settle htc
  | recv hb =>
    have hw : CounterBounds (commandStart .recv s) :=
      ⟨hcount, h.frame_bound, nofun, nofun⟩
    exact (ParserUpToSettle.of_decodeStart hw nofun).settle htc
  | send p hb hl =>
    obtain ⟨hd, -⟩ := hc.of_not_busy hb
    have hw : CounterBounds { built .send p s with sess := .sending, txpend := true } :=
      ⟨hcount, built_frameLen_le .send p hl, nofun, fun _ => rfl⟩
    exact (ParserUpToSettle.of_idle hw hd).settle htc

/-- An answer of TXCH to the presented frame keeps the parser's bounds: no attempt has started yet (R181, R182). -/
theorem ParserUpToSettle.of_blockTx {s : State} (a : TxAnswer) (h : ParserInv s)
    (hd : s.dec = .idle) (hs : s.sess = .sending) : ParserUpToSettle (blockTx a s) := by
  have hzero := h.no_attempt_yet hs
  cases a with
  | writeErr =>
    exact .of_idle ⟨h.count_bound, h.frame_bound, nofun, nofun⟩ hd
  | writeOk =>
    have hle : s.attempts ≤ s.ackMax := by rw [hzero]; exact Nat.zero_le _
    exact .of_idle ⟨h.count_bound, h.frame_bound, fun _ => hle, fun _ => hzero⟩ hd

theorem parserInv_reset : ParserInv .reset := by constructor <;> decide

/-- Settles O47, turn by turn: each event keeps the parser's facts up to Settle, and Settle brings back the rest. -/
theorem everyStepKeepsTheParser : Obligations.EveryStepKeepsTheParser := by
  intro s t hc h hstep
  have htc := everyStepKeepsControl s t hc hstep
  rcases step_cases hstep with ⟨rest, -, rfl⟩ | ⟨r, rest, rs, -, -, hx⟩ | ⟨a, rest, as, ha, rfl⟩ |
    ⟨e, rest, es, u, ha, hu, rfl⟩ | ⟨rfl, -⟩
  · exact { parserInv_reset with }
  · have hv : ParserInv { s with sched := rest, hostQ := rs } := { h with }
    exact hv.of_hostStep { hc with } (exec_decodeHost_next hx)
  · have hs := hc.sending_of_txAnswers ha
    have hv : ParserInv { s with sched := rest, txQ := as } := { h with }
    exact (ParserUpToSettle.of_blockTx a hv (hc.sending_runs hs).2 hs).settle htc
  · have hv : ParserInv (rxTaken s rest es) := { h with }
    exact (ParserUpToSettle.of_rxStep hv hu).settle htc
  · exact { h with }

end Sys2Proof.Machine

/-! PROOFS. Every step keeps memory and the frame, which writes reach TXBUF and its registers, and the reset state (R48 to R53, R61, R126, R153, R192, R215, R260). -/

namespace Sys2Proof.Machine

/- ## Memory -/

/-- A write of a buffer byte keeps the canonical form and stays inside the buffers (R61). -/
theorem MemoryInv.of_memWrite {s t : State} {a : Nat} {v : Byte} {b : Buf} (h : MemoryInv s)
    (ha : region a = .buf b) (ht : t.mem = memWrite s.mem a v) : MemoryInv t := by
  obtain ⟨hwf, hbuf⟩ := h
  rw [MemoryInv, ht]
  refine ⟨memWrite_wf a v hwf, fun c hc => ?_⟩
  rcases mem_memWrite hc with rfl | hold
  · exact ⟨b, ha⟩
  · exact hbuf c hold

/-- A built frame lies inside FRAMEBUF, since TX_LEN is at most 65534 (R125, R126). -/
theorem MemoryInv.of_built {s : State} {p : List Byte} (o : OpCode) (h : MemoryInv s)
    (hl : s.txLen ≠ 65535) (hp : txPayload s = some p) : MemoryInv (built o p s) := by
  obtain ⟨hwf, hbuf⟩ := h
  refine ⟨memWriteBytes_wf _ _ hwf, fun c hc => ?_⟩
  rcases mem_memWriteBytes hc with ⟨hlo, hhi⟩ | hold
  · rw [encodeFrame_length, memReadBytes_length hp] at hhi
    have hlen : s.txLen.toNat ≤ 65534 := by bv_omega
    simp only [bufBase] at hlo hhi
    exact ⟨.framebuf, region_framebuf (by omega) (by omega)⟩
  · exact hbuf c hold

theorem MemoryInv.settle {s : State} (h : MemoryInv s) : MemoryInv (settle s) := by
  rw [MemoryInv, (settle_same s).mem]; exact h

/-- A host access keeps memory inside the buffers (R214). -/
theorem MemoryInv.of_hostStep {s t : State} (h : MemoryInv s) (ht : HostStep s t) :
    MemoryInv t := by
  cases ht with
  | read | syncMax | ackMax | txId | txLen => exact h
  | byteWrite a v hb hlo hhi => exact h.of_memWrite (region_txbuf hlo hhi) rfl
  | encode p hb hl hp =>
    have hw : MemoryInv (finish .ok false 0 (built .encode p s)) := h.of_built .encode hl hp
    exact hw.settle
  | recv hb =>
    have hw : MemoryInv (decodeStart (commandStart .recv s)) := h
    exact hw.settle
  | send p hb hl hp =>
    have hw : MemoryInv { built .send p s with sess := .sending, txpend := true } :=
      h.of_built .send hl hp
    exact hw.settle

/-- An answer of RXCH keeps memory inside the buffers: RX_COUNT stays below RX_LENF - 1 while payload bytes are stored (R153). -/
theorem MemoryInv.of_rxStep {v u : State} {e : RxEvent} (h : MemoryInv v) (hp : ParserInv v)
    (hu : RxStep v e u) : MemoryInv u := by
  rcases rxStep_mem hu with hmem | ⟨b, hd, rfl⟩
  · rw [MemoryInv, hmem]; exact h
  · have hopen := hp.payload_open hd
    have hlen := v.rxLenf.isLt
    exact h.of_memWrite (region_rxbuf (by omega) (by omega)) (payloadByte_mem b v)

theorem blockTx_mem (a : TxAnswer) (s : State) : (blockTx a s).mem = s.mem := by
  cases a <;> rfl

theorem memoryInv_reset : MemoryInv .reset := ⟨reset_mem_wf, nofun⟩

/-- Settles O49: the three writes of the model, of a TXBUF byte, a payload byte and a frame, stay inside their buffers. -/
theorem everyStepKeepsMemory : Obligations.EveryStepKeepsMemory := by
  intro s t hc hp h hstep
  rcases step_cases hstep with ⟨rest, -, rfl⟩ | ⟨r, rest, rs, -, -, hx⟩ | ⟨a, rest, as, ha, rfl⟩ |
    ⟨e, rest, es, u, ha, hu, rfl⟩ | ⟨rfl, -⟩
  · exact memoryInv_reset
  · have hv : MemoryInv { s with sched := rest, hostQ := rs } := h
    exact hv.of_hostStep (exec_decodeHost_next hx)
  · have hw : MemoryInv (blockTx a { s with sched := rest, txQ := as }) := by
      rw [MemoryInv, blockTx_mem]; exact h
    exact hw.settle
  · have hv : MemoryInv (rxTaken s rest es) := h
    exact (hv.of_rxStep { hp with } hu).settle
  · exact h

/- ## The frame -/

/-- The frame invariant where no frame is presented: FRAMEBUF[0..FRAME_LEN-1] reads as it did (R51). -/
theorem FrameInv.of_not_sending {s t : State} (h : FrameInv s) (hs : t.sess ≠ .sending)
    (hlen : t.frameLen = s.frameLen)
    (hmem : ∀ x, 0x40000 ≤ x → memRead t.mem x = memRead s.mem x) : FrameInv t := by
  obtain ⟨⟨f, hf⟩, -⟩ := h
  refine ⟨⟨f, ?_⟩, fun hx => absurd hx hs⟩
  rw [hlen, memReadBytes_congr fun k _ => hmem (bufBase .framebuf + k) (Nat.le_add_right ..)]
  exact hf

/-- No transition of Settle presents a frame (R184). -/
theorem settleStep_sess {s t : State} (h : settleStep s = some t) :
    t.sess = s.sess ∨ t.sess.terminal = true := by
  rcases settleStep_cases h with ⟨-, -, rfl⟩ | ⟨-, -, -, -, rfl⟩ | ⟨-, -, -, -, rfl⟩
  · exact (decodeEnd_sess (syncTimeoutAct_decodeEnd s) :)
  · exact .inr rfl
  · exact .inl rfl

theorem ne_sending_of_terminal {x : Sess} (h : x.terminal = true) : x ≠ .sending := by
  rintro rfl; cases h

/-- A session is in SENDING after Settle only if it was before. -/
theorem settle_ne_sending {s : State} (h : s.sess ≠ .sending) : (settle s).sess ≠ .sending :=
  settle_induct (fun u => u.sess ≠ .sending)
    (fun _ _ hu hv => (settleStep_sess hv).elim (· ▸ hu) ne_sending_of_terminal)
    (fun _ _ hu => hu) h

/-- Settle keeps the frame: it writes no memory, and it presents nothing. -/
theorem FrameInv.settle {s : State} (h : FrameInv s) : FrameInv (settle s) := by
  have hsame := settle_same s
  obtain ⟨hf, hsend⟩ := h
  rw [FrameInv, txPayload, presentedFrame, hsame.mem, hsame.frameLen, hsame.txLen, hsame.txId]
  exact ⟨hf, fun hs => hsend (not_imp_not.1 settle_ne_sending hs)⟩

/-- FRAMEBUF[0..FRAME_LEN-1] is the frame that was built (R126). -/
theorem memReadBytes_built {o : OpCode} {p : List Byte} {s : State} (hl : s.txLen ≠ 65535)
    (hp : txPayload s = some p) :
    memReadBytes (built o p s).mem (bufBase .framebuf) (built o p s).frameLen.toNat =
      some (encodeFrame s.txId p) := by
  have hlen : (built o p s).frameLen.toNat = (encodeFrame s.txId p).length := by
    rw [built_frameLen hl, encodeFrame_length, memReadBytes_length hp]
  rw [hlen]
  exact memReadBytes_memWriteBytes ..

/-- A byte below FRAMEBUF is not touched by a built frame. -/
theorem memRead_built_below {o : OpCode} {p : List Byte} {s : State} {x : Nat}
    (hx : x < bufBase .framebuf) : memRead (built o p s).mem x = memRead s.mem x :=
  memRead_memWriteBytes_outside _ _ _ _ (.inl hx)

/-- Building the frame leaves its payload in TXBUF as it was (R126, R215). -/
theorem txPayload_built {o : OpCode} {p : List Byte} {s : State} :
    txPayload (built o p s) = txPayload s :=
  memReadBytes_congr fun k hk => memRead_built_below (by
    have := s.txLen.isLt
    simp only [bufBase]; omega)

/-- A built frame is the frame of the operands, whether it is presented or not (R126, R180). -/
theorem FrameInv.of_built {s t : State} {p : List Byte} {o : OpCode} (hl : s.txLen ≠ 65535)
    (hp : txPayload s = some p) (hmem : t.mem = (built o p s).mem)
    (hlen : t.frameLen = (built o p s).frameLen) (htl : t.txLen = s.txLen)
    (hid : t.txId = s.txId) : FrameInv t := by
  have hframe := memReadBytes_built (o := o) hl hp
  rw [FrameInv, txPayload, presentedFrame, hmem, hlen, htl, hid, hframe]
  exact ⟨⟨_, rfl⟩, fun _ => ⟨hl, p, txPayload_built.trans hp, rfl⟩⟩

/-- A host access keeps the frame: operands change only while none is presented (R215). -/
theorem FrameInv.of_hostStep {s t : State} (h : FrameInv s) (hc : ControlInv s)
    (ht : HostStep s t) : FrameInv t := by
  cases ht with
  | read => exact h
  | syncMax d hb | ackMax d hb | txId v hb | txLen v hb =>
    exact h.of_not_sending (hc.of_not_busy hb).2.1 rfl fun _ _ => rfl
  | byteWrite a v hb hlo hhi =>
    exact h.of_not_sending (hc.of_not_busy hb).2.1 rfl
      fun x hx => memRead_memWrite_other _ _ _ _ (by omega)
  | encode p hb hl hp =>
    have hw : FrameInv (finish .ok false 0 (built .encode p s)) :=
      .of_built (o := .encode) hl hp rfl rfl rfl rfl
    exact hw.settle
  | recv hb =>
    have hw : FrameInv (decodeStart (commandStart .recv s)) :=
      h.of_not_sending Sess.noConfusion rfl fun _ _ => rfl
    exact hw.settle
  | send p hb hl hp =>
    have hw : FrameInv { built .send p s with sess := .sending, txpend := true } :=
      .of_built (o := .send) hl hp rfl rfl rfl rfl
    exact hw.settle

/-- After an answer of TXCH no frame is presented, and FRAMEBUF is as before (R181, R182). -/
theorem FrameInv.of_blockTx {s : State} (a : TxAnswer) (h : FrameInv s) :
    FrameInv (blockTx a s) := by
  cases a <;> exact h.of_not_sending Sess.noConfusion rfl fun _ _ => rfl

/-- The byte that an answer of RXCH may store lies in RXBUF, or at most just behind it (R153). -/
theorem rxStep_memRead {v u : State} {e : RxEvent} (hu : RxStep v e u) {x : Nat}
    (hx : x < 0x20000 ∨ 0x30000 ≤ x) : memRead u.mem x = memRead v.mem x := by
  rcases rxStep_mem hu with hmem | ⟨b, -, rfl⟩
  · rw [hmem]
  · have := v.rxCount.isLt
    rw [payloadByte_mem, memRead_memWrite_other _ _ _ _ (by omega)]

/-- An answer of RXCH leaves FRAMEBUF alone, and while a decode runs no frame is presented. -/
theorem FrameInv.of_rxStep {v u : State} {e : RxEvent} (h : FrameInv v) (hd : v.dec ≠ .idle)
    (hs : v.sess ≠ .sending) (hu : RxStep v e u) : FrameInv u :=
  h.of_not_sending ((rxStep_sess hu hd).elim (· ▸ hs) ne_sending_of_terminal)
    (rxStep_same hu).frameLen fun _ hx => rxStep_memRead hu (.inr (by omega))

theorem frameInv_reset : FrameInv .reset := ⟨⟨[], rfl⟩, nofun⟩

/-- Settles O50: only ENCODE and SEND write FRAMEBUF, and while a frame is presented nothing writes its operands. -/
theorem everyStepKeepsTheFrame : Obligations.EveryStepKeepsTheFrame := by
  intro s t hc _ h hstep
  rcases step_cases hstep with ⟨rest, -, rfl⟩ | ⟨r, rest, rs, -, -, hx⟩ | ⟨a, rest, as, ha, rfl⟩ |
    ⟨e, rest, es, u, ha, hu, rfl⟩ | ⟨rfl, -⟩
  · exact frameInv_reset
  · have hv : FrameInv { s with sched := rest, hostQ := rs } := h
    exact hv.of_hostStep { hc with } (exec_decodeHost_next hx)
  · have hv : FrameInv { s with sched := rest, txQ := as } := h
    exact (hv.of_blockTx a).settle
  · have hd := hc.decodes_of_rxAnswers ha
    have hs : s.sess ≠ .sending := fun hs => hd (hc.sending_runs hs).2
    have hv : FrameInv (rxTaken s rest es) := h
    exact (hv.of_rxStep hd hs hu).settle
  · exact h

/- ## The operands -/

/-- The operands of the commands that only the host and RESET write: four registers and TXBUF (R48, R215). -/
structure SameOperands (s t : State) : Prop where
  syncMax : t.syncMax = s.syncMax
  ackMax : t.ackMax = s.ackMax
  txId : t.txId = s.txId
  txLen : t.txLen = s.txLen
  txbuf : ∀ x, 0x10000 ≤ x → x ≤ 0x1FFFD → memRead t.mem x = memRead s.mem x

/-- Settle writes no operand. -/
theorem SameOperands.settle {s t : State} (h : SameOperands s t) : SameOperands s (settle t) := by
  have hsame := settle_same t
  obtain ⟨hsync, hack, hid, hlen, hbuf⟩ := h
  exact ⟨hsame.syncMax.trans hsync, hsame.ackMax.trans hack, hsame.txId.trans hid,
    hsame.txLen.trans hlen, by rw [hsame.mem]; exact hbuf⟩

/-- Building the frame writes no operand (R126). -/
theorem buildFrame_sameOperands {o : OpCode} {s u : State}
    (h : buildFrame (commandStart o s) = some u) : SameOperands s u := by
  cases hp : txPayload s with
  | none => rw [buildFrame_none hp] at h; cases h
  | some p =>
    rw [buildFrame_some hp] at h; cases h
    exact ⟨rfl, rfl, rfl, rfl, fun x _ hx => memRead_built_below (by simp only [bufBase]; omega)⟩

theorem startEncode_sameOperands {s t : State} (h : startEncode s = .next t) :
    SameOperands s t := by
  unfold startEncode at h
  split at h
  · cases h
  · split at h
    · cases h
    · next u hu =>
      cases h
      have hw : SameOperands s (finish .ok false 0 u) := { buildFrame_sameOperands hu with }
      exact hw.settle

theorem startSend_sameOperands {s t : State} (h : startSend s = .next t) : SameOperands s t := by
  unfold startSend at h
  split at h
  · cases h
  · split at h
    · cases h
    · next u hu =>
      cases h
      have hw : SameOperands s { u with sess := .sending, txpend := true } :=
        { buildFrame_sameOperands hu with }
      exact hw.settle

theorem startRecv_sameOperands {s t : State} (h : startRecv s = .next t) : SameOperands s t := by
  cases h
  have hw : SameOperands s (decodeStart (commandStart .recv s)) :=
    ⟨rfl, rfl, rfl, rfl, fun _ _ _ => rfl⟩
  exact hw.settle

/-- A command, written to CMD, writes no operand (R213). -/
theorem cmdWrite_sameOperands {d : Word} {s t : State} (h : cmdWrite d s = .next t) :
    SameOperands s t := by
  unfold cmdWrite at h
  split_ifs at h
  · cases h
  · cases h
  · exact startEncode_sameOperands h
  · exact startRecv_sameOperands h
  · exact startSend_sameOperands h

/-- A read access only gives the host a value (R211, R214). -/
theorem hostAccess_read_next {sz : Bool} {a : Nat} {d : Word} {s t : State}
    (h : hostAccess false sz a d s = .next t) : ∃ v, t = { s with hostData := v } := by
  unfold hostAccess at h
  split at h
  · cases h
  · split at h
    · cases h
    · split at h
      · cases h
      · cases h; exact ⟨_, rfl⟩
  · split at h
    · cases h
    · simp only [Bool.false_eq_true, if_false, bufRead] at h
      split at h
      · cases h
      · cases h; exact ⟨_, rfl⟩

theorem sameOperands_of_read {sz : Bool} {a : Nat} {d : Word} {s t : State}
    (h : hostAccess false sz a d s = .next t) : SameOperands s t := by
  obtain ⟨v, rfl⟩ := hostAccess_read_next h
  exact ⟨rfl, rfl, rfl, rfl, fun _ _ _ => rfl⟩

/-- A host access that is no WRB, and no WR of a register but CMD, writes no operand (R215). -/
theorem exec_sameOperands {i : Instr} {s t : State} (h : exec i s = .next t)
    (hwr : ∀ a d, i = .wr a d → a = 0) (hwrb : ∀ a v, i ≠ .wrb a v)
    (hreply : i ≠ .nackMatch ∧ i ≠ .ackMatch ∧ ∀ id m, i ≠ .unrelated id m) :
    SameOperands s t := by
  obtain ⟨hnack, hack, hunrelated⟩ := hreply
  cases i with
  | encode =>
    simp only [exec, execEncode, refuse] at h
    split_ifs at h
    exact startEncode_sameOperands h
  | recv =>
    simp only [exec, execRecv, refuse] at h
    split_ifs at h
    exact startRecv_sameOperands h
  | send =>
    simp only [exec, execSend, refuse] at h
    split_ifs at h
    exact startSend_sameOperands h
  | cmdReserved w =>
    simp only [exec, execCmdReserved, refuse] at h
    split_ifs at h
  | rd a => exact sameOperands_of_read h
  | wr a d =>
    obtain rfl := hwr a d rfl
    rw [show (0 : BitVec 20) = regOffset .cmd from rfl, exec_wr_reg] at h
    simp only [regWrite, writable, refuse, Bool.true_eq_false, if_false] at h
    split_ifs at h
    exact cmdWrite_sameOperands h
  | rdb a => exact sameOperands_of_read h
  | wrb a v => exact absurd rfl (hwrb a v)
  | nackMatch => exact absurd rfl hnack
  | ackMatch => exact absurd rfl hack
  | unrelated id m => exact absurd rfl (hunrelated id m)

theorem sameOperands_blockTx (a : TxAnswer) (s : State) : SameOperands s (blockTx a s) := by
  cases a <;> exact ⟨rfl, rfl, rfl, rfl, fun _ _ _ => rfl⟩

/-- An answer of RXCH writes no operand: its byte goes to RXBUF (R153). -/
theorem rxStep_sameOperands {v u : State} {e : RxEvent} (h : RxStep v e u) : SameOperands v u := by
  obtain ⟨hsync, hack, hid, hlen, -⟩ := rxStep_same h
  exact ⟨hsync, hack, hid, hlen, fun _ _ hx => rxStep_memRead h (.inl (by omega))⟩

/-- A step writes the operands only in a RESET, a WR of a register but CMD, or a WRB (R48, R215). -/
theorem step_sameOperands {s t : State} (hstep : step s = .next t)
    (hreset : ∀ rest, s.sched ≠ .reset :: rest)
    (hhost : ∀ rest r rs, s.sched = .host :: rest → s.hostQ = r :: rs →
      (∀ a d, decodeHost r = .wr a d → a = 0) ∧ ∀ a v, decodeHost r ≠ .wrb a v) :
    SameOperands s t := by
  rcases step_cases hstep with ⟨rest, hr, -⟩ | ⟨r, rest, rs, hs, hq, hx⟩ | ⟨a, rest, as, -, rfl⟩ |
    ⟨e, rest, es, u, -, hu, rfl⟩ | ⟨rfl, -⟩
  · exact absurd hr (hreset rest)
  · obtain ⟨hwr, hwrb⟩ := hhost rest r rs hs hq
    exact { exec_sameOperands hx hwr hwrb (decodeHost_not_reply r) with }
  · have hw := sameOperands_blockTx a { s with sched := rest, txQ := as }
    exact { hw.settle with }
  · exact { (rxStep_sameOperands hu).settle with }
  · exact ⟨rfl, rfl, rfl, rfl, fun _ _ _ => rfl⟩

/-- Settles O26: every turn but a RESET or a host write keeps the operands. -/
theorem operationsKeepTheirOperands : Obligations.OperationsKeepTheirOperands := by
  intro s t hstep hreset hhost
  obtain ⟨hsync, hack, hid, hlen, hbuf⟩ := step_sameOperands hstep hreset hhost
  exact ⟨hsync, hack, hid, hlen, hbuf⟩

/- ## Reset -/

theorem checksumInv_reset : ChecksumInv .reset := nofun

/-- Settles O45: the base case of the step lemmas, one invariant at a time. -/
theorem resetMeetsTheInvariants : Obligations.ResetMeetsTheInvariants :=
  ⟨controlInv_reset, parserInv_reset, checksumInv_reset, memoryInv_reset, frameInv_reset⟩

end Sys2Proof.Machine

/-! PROOFS. The host accesses that are refused for their width or address (R62, R64, R65, R210), the instructions that store nothing (R73, R142, R188 to R190, R215), and an agent with nothing to do (R68, R70, R254). -/

namespace Sys2Proof.Machine

/- ## Wrong widths and addresses -/

/-- An access to a reserved address is refused BAD_ADDRESS, whatever its width (R62). -/
theorem hostAccess_reserved {a : Nat} (h : region a = .reserved) (w sz : Bool) (d : Word) (s : State) :
    hostAccess w sz a d s = refuse .badAddress s := by
  simp only [hostAccess, h]

/-- A byte access to the register window is refused BAD_WIDTH, whatever its offset (R64). -/
theorem hostAccess_window_byte {a : Nat} (h : a ≤ 0x47) (w : Bool) (d : Word) (s : State) :
    hostAccess w false a d s = refuse .badWidth s := by
  simp only [hostAccess, region_reg h, if_true]

/-- A word access between two register offsets is refused BAD_WIDTH (R64). -/
theorem hostAccess_window_unaligned {a : Nat} (h : a ≤ 0x47) (ha : a % 4 ≠ 0) (w : Bool) (d : Word)
    (s : State) : hostAccess w true a d s = refuse .badWidth s := by
  simp only [hostAccess, region_reg h, (regAt_window h).2 ha, Bool.true_eq_false, if_false]

/-- A word access to a buffer is refused BAD_WIDTH (R65). -/
theorem hostAccess_buf_word {a : Nat} {b : Buf} (h : region a = .buf b) (w : Bool) (d : Word)
    (s : State) : hostAccess w true a d s = refuse .badWidth s := by
  simp only [hostAccess, h, if_true]

/-- Settles O13: each clause is the access path's answer for one kind of address and width. -/
theorem oddAccessesAreRefused : Obligations.OddAccessesAreRefused :=
  fun _ _ _ _ =>
    ⟨fun h => ⟨hostAccess_reserved h .., hostAccess_reserved h .., hostAccess_reserved h ..,
        hostAccess_reserved h ..⟩,
      fun h => ⟨hostAccess_window_byte h .., hostAccess_window_byte h ..⟩,
      fun h ha => ⟨hostAccess_window_unaligned h ha .., hostAccess_window_unaligned h ha ..⟩,
      fun _ h => ⟨hostAccess_buf_word h .., hostAccess_buf_word h ..⟩⟩

/- ## Instructions that store nothing -/

/-- A read access stores nothing (R73). -/
theorem hostAccess_read_mem {sz : Bool} {a : Nat} {d : Word} {s t : State}
    (h : hostAccess false sz a d s = .next t) : t.mem = s.mem := by
  obtain ⟨v, rfl⟩ := hostAccess_read_next h
  rfl

/-- A write to a register other than CMD stores nothing (R215). -/
theorem regWrite_mem {r : Reg} {d : Word} {s t : State} (hr : r ≠ .cmd)
    (h : regWrite r d s = .next t) : t.mem = s.mem := by
  simp only [regWrite, refuse] at h
  split_ifs at h
  split at h
  · exact absurd rfl hr
  · cases h; rfl
  · cases h; rfl
  · simp only [txIdWrite, refuse] at h
    split_ifs at h
    cases h; rfl
  · simp only [txLenWrite, refuse] at h
    split_ifs at h
    cases h; rfl
  · cases h

/-- A WR at any address but that of CMD stores nothing: it writes one register or is refused (R212, R215). -/
theorem execWr_mem {a : BitVec 20} {d : Word} {s t : State} (ha : a ≠ 0)
    (h : execWr a d s = .next t) : t.mem = s.mem := by
  unfold execWr hostAccess at h
  split at h
  · cases h
  · simp only [Bool.true_eq_false, if_false, if_true] at h
    split at h
    · cases h
    · next r hr =>
      have hcmd : r ≠ .cmd := by
        rintro rfl
        exact ha (BitVec.eq_of_toNat_eq (regAt_eq_some hr))
      exact regWrite_mem hcmd h
  · cases h

/-- A RECV that starts stores nothing: RXBUF keeps what it holds (R142). -/
theorem execRecv_mem {s t : State} (h : execRecv s = .next t) : t.mem = s.mem := by
  simp only [execRecv, refuse] at h
  split_ifs at h
  cases h
  exact (settle_same _).mem

/-- Settles O25: each of these instructions leaves the whole memory as it was. -/
theorem othersStoreNothing : Obligations.OthersStoreNothing := by
  intro i s t h hi
  suffices hmem : t.mem = s.mem from fun a => by rw [hmem]
  rcases hi with rfl | ⟨a, rfl⟩ | ⟨a, d, rfl, ha⟩ | ⟨a, rfl⟩ | rfl | rfl | ⟨id, m, rfl⟩
  · exact execRecv_mem h
  · exact hostAccess_read_mem h
  · exact execWr_mem ha h
  · exact hostAccess_read_mem h
  · cases h; exact (settle_same (nackMatchAct s)).mem
  · cases h; exact (settle_same (ackMatchAct s)).mem
  · cases h; exact (settle_same s).mem

/- ## Waiting -/

/-- A turn that brings no instruction is the whole step (R9). -/
theorem step_of_done {s t : State} (h : turn s = .done t) : step s = .next t := by
  unfold step; rw [h]

/-- RXCH gives no answer without a request, and none that it does not have (R68, R254). -/
theorem rxTurn_of_waiting {s : State} (h : s.rxpend = false ∨ s.rxQ = []) : rxTurn s = .done s := by
  unfold rxTurn
  split
  · next hp =>
    have hq : s.rxQ = [] := h.resolve_left (by simp [hp])
    rw [hq]
  · rfl

/-- TXCH gives no answer without a presented frame, and none that it does not have (R70, R254). -/
theorem txTurn_of_waiting {s : State} (h : s.txpend = false ∨ s.txQ = []) : txTurn s = .done s := by
  unfold txTurn
  split
  · next hp =>
    have hq : s.txQ = [] := h.resolve_left (by simp [hp])
    rw [hq]
  · rfl

/-- Settles O32, agent by agent: the turn comes to nothing, and only the schedule is one shorter. -/
theorem waitingChangesNothing : Obligations.WaitingChangesNothing := by
  refine ⟨fun s hs => step_of_done ?_, fun s rest hs hq => step_of_done ?_,
    fun s rest hs hw => step_of_done ?_, fun s rest hs hw => step_of_done ?_⟩
  · rw [turn, hs]
  · rw [turn, hs]; simp only [hostTurn, hq]
  · rw [turn, hs]; exact rxTurn_of_waiting hw
  · rw [turn, hs]; exact txTurn_of_waiting hw

end Sys2Proof.Machine

/-! PROOFS. Settle with no byte budget to scan with, and what follows a frame that was written (R70, R143, R182, R184, R244, R263). -/

namespace Sys2Proof.Machine

/-- A scan that has used its budget ends SYNC_TIMEOUT, and inside SEND that only ends the decode (R143, R186). -/
theorem settleStep_of_budgetSpent {s : State} (hop : s.op ≠ .recv) (hd : s.dec = .sync)
    (hc : s.syncMax ≤ s.syncCnt) :
    settleStep s = some (ended ⟨.syncTimeout, false, 0⟩ { s with syncDisc := s.syncCnt }) := by
  unfold settleStep
  rw [if_pos ((budgetSpent_iff s).2 ⟨hd, hc⟩)]
  simp [syncTimeoutAct, endDecode, sessionDecodeEnd, ended, hop]

/-- An attempt with no byte budget: it is counted, its decode starts, and ends SYNC_TIMEOUT (R143, R184, R244). -/
def vainAttempt (s : State) : State :=
  ended ⟨.syncTimeout, false, 0⟩ (decodeStart { s with attempts := s.attempts + 1 })

/-- Where every attempt of a session with no byte budget has been made in vain (R244, R263). -/
def vainSession (s : State) : State :=
  { finish .ackTimeout false 0 (ended ⟨.syncTimeout, false, 0⟩ (decodeStart s)) with
    sess := .exhausted
    attempts := s.ackMax }

/-- With no byte budget, Settle makes the next attempt in vain and goes on (R244). -/
theorem settle_vainAttempt {s : State} (hb : s.busy = true) (hs : s.sess = .awaitingReply)
    (hd : s.dec = .idle) (hop : s.op ≠ .recv) (hm : s.syncMax = 0) (ha : s.attempts < s.ackMax) :
    settle s = settle (vainAttempt s) := by
  rw [settle_of_some (settleStep_of_between hb hs hd), iterationAct, if_neg (BitVec.not_le.2 ha)]
  exact settle_of_some (settleStep_of_budgetSpent hop rfl (BitVec.le_of_eq hm))

/-- With no byte budget, Settle makes all attempts that are left and exhausts the session (R244, R263). -/
theorem settle_vainSession {s : State} (hb : s.busy = true) (hs : s.sess = .awaitingReply)
    (hd : s.dec = .idle) (hop : s.op ≠ .recv) (hm : s.syncMax = 0) (ha : s.attempts < s.ackMax) :
    settle s = vainSession s := by
  induction hn : s.ackMax.toNat - s.attempts.toNat generalizing s with
  | zero => have := BitVec.lt_def.1 ha; omega
  | succ n ih =>
    have hsucc := toNat_succ_of_lt ha
    rw [settle_vainAttempt hb hs hd hop hm ha]
    by_cases hlast : s.attempts + 1 = s.ackMax
    · rw [settle_of_exhausted (s := vainAttempt s) hb hs rfl (BitVec.le_of_eq hlast.symm), vainSession,
        ← hlast]
      rfl
    · have hne : (s.attempts + 1).toNat ≠ s.ackMax.toNat := fun h => hlast (BitVec.eq_of_toNat_eq h)
      have hlt : s.attempts + 1 < s.ackMax := by
        have := BitVec.lt_def.1 ha
        rw [BitVec.lt_def]; omega
      have hleft : s.ackMax.toNat - (s.attempts + 1).toNat = n := by omega
      exact ih (s := vainAttempt s) hb hs rfl hop hm hlt hleft

/-- A decode's end presents no frame to TXCH. -/
theorem decodeEnd_txpend {o : ResultReg} {w u : State} (h : DecodeEnd o w u)
    (hw : w.txpend = false) : u.txpend = false := by
  cases h with
  | goesOn => exact hw
  | _ => rfl

/-- Settle presents no frame to TXCH (R70). -/
theorem settle_txpend {s : State} (h : s.txpend = false) : (settle s).txpend = false := by
  refine settle_induct (fun u => u.txpend = false) (fun u v hu hv => ?_) (fun _ _ hu => hu) h
  rcases settleStep_cases hv with ⟨-, -, rfl⟩ | ⟨-, -, -, -, rfl⟩ | ⟨-, -, -, -, rfl⟩
  · exact decodeEnd_txpend (syncTimeoutAct_decodeEnd u) hu
  · rfl
  · exact hu

/-- The state that WriteOk leaves, before Settle (R182). -/
def frameWritten (s : State) (rest : List Agent) (as : List TxAnswer) : State :=
  txWriteOk { s with sched := rest, txQ := as }

/-- A step in which TXCH answers WriteOk is that write and Settle (R9, R182). -/
theorem step_writeOk {s : State} {rest : List Agent} {as : List TxAnswer}
    (h : txAnswers s .writeOk rest as) : step s = .next (settle (frameWritten s rest as)) :=
  step_tx h

/-- The frame that WriteOk records is the presented one (R70, R182). -/
theorem frameWritten_txSent {s : State} {f : List Byte}
    (hf : memReadBytes s.mem (bufBase .framebuf) s.frameLen.toNat = some f) (rest : List Agent)
    (as : List TxAnswer) : (frameWritten s rest as).txSent = s.txSent ++ [f] := by
  simp only [frameWritten, txWriteOk, presentedFrame, hf, Option.getD_some]

/-- Settles O44: WriteOk puts the session between two attempts with none counted, and Settle takes it on as ACK_MAX and SYNC_MAX allow. -/
theorem writeOkStartsTheWait : Obligations.WriteOkStartsTheWait := by
  intro s f rest as hx hd hb hs hop hat hf
  have hsame := settle_same (frameWritten s rest as)
  have hleft (h : 0 < s.ackMax.toNat) : s.attempts < s.ackMax := by rw [hat]; exact h
  refine ⟨settle (frameWritten s rest as), step_writeOk hx, hsame.txSent.trans (frameWritten_txSent hf ..),
    settle_txpend rfl, hsame.mem, fun hack => ?_, fun hack hsync => ?_, fun hack hsync => ?_⟩
  · have hnone : s.ackMax ≤ s.attempts := by rw [BitVec.le_def, hack]; exact Nat.zero_le _
    rw [settle_of_exhausted (s := frameWritten s rest as) hb rfl hd hnone]
    exact ⟨rfl, rfl, hat, rfl, rfl, hd⟩
  · rw [settle_of_attempt (s := frameWritten s rest as) hb rfl hd (hleft hack) hsync]
    have hfirst : s.attempts + 1 = 1 := by rw [hat]; rfl
    exact ⟨rfl, hb, hfirst, rfl, rfl, rfl⟩
  · have hsend : s.op ≠ .recv := by rw [hop]; exact OpCode.noConfusion
    have hzero : s.syncMax = 0 := BitVec.eq_of_toNat_eq hsync
    rw [settle_vainSession (s := frameWritten s rest as) hb rfl hd hsend hzero (hleft hack)]
    exact ⟨rfl, rfl, rfl, rfl, rfl, rfl, rfl⟩

end Sys2Proof.Machine

/-! PROOFS. The encodings: what each decoder reads, and the object that the encoder gives back (R90, R91, R93, R95, R100), with the words that the spec writes out (R220). -/

namespace Sys2Proof

/- ## Command words -/

/-- Which instruction a command word stands for (R91, R93). -/
theorem decodeCmd_cases (w : Word) :
    (w = 1 ∧ decodeCmd w = .encode) ∨ (w = 2 ∧ decodeCmd w = .recv) ∨
    (w = 3 ∧ decodeCmd w = .send) ∨
    ((w ≠ 1 ∧ w ≠ 2 ∧ w ≠ 3) ∧ decodeCmd w = .cmdReserved w) := by
  unfold decodeCmd
  split_ifs with h1 h2 h3
  · exact .inl ⟨h1, rfl⟩
  · exact .inr (.inl ⟨h2, rfl⟩)
  · exact .inr (.inr (.inl ⟨h3, rfl⟩))
  · exact .inr (.inr (.inr ⟨⟨h1, h2, h3⟩, rfl⟩))

/-- The reserved command words are all but the three legal ones (R93). -/
theorem wellFormed_cmdReserved (w : Word) :
    (Instr.cmdReserved w).wellFormed = true ↔ w ≠ 1 ∧ w ≠ 2 ∧ w ≠ 3 := by
  simp [Instr.wellFormed, and_assoc]

theorem decodeCmd_of_reserved {w : Word} (h : w ≠ 1 ∧ w ≠ 2 ∧ w ≠ 3) :
    decodeCmd w = .cmdReserved w := by
  obtain ⟨h1, h2, h3⟩ := h
  rw [decodeCmd, if_neg h1, if_neg h2, if_neg h3]

theorem wellFormed_decodeCmd (w : Word) : (decodeCmd w).wellFormed = true := by
  rcases decodeCmd_cases w with ⟨-, h⟩ | ⟨-, h⟩ | ⟨-, h⟩ | ⟨hw, h⟩
  · rw [h]; rfl
  · rw [h]; rfl
  · rw [h]; rfl
  · rw [h]; exact (wellFormed_cmdReserved w).2 hw

theorem encode_decodeCmd (w : Word) : encode (decodeCmd w) = .host (.cmd w) := by
  rcases decodeCmd_cases w with ⟨rfl, h⟩ | ⟨rfl, h⟩ | ⟨rfl, h⟩ | ⟨-, h⟩
  · rw [h]; rfl
  · rw [h]; rfl
  · rw [h]; rfl
  · rw [h]; rfl

/- ## Bus requests -/

@[simp] theorem decodeBus_rdb (a : BitVec 20) (d : Word) : decodeBus (busWord 0#2 a) d = .rdb a := by
  simp [decodeBus]

@[simp] theorem decodeBus_rd (a : BitVec 20) (d : Word) : decodeBus (busWord 1#2 a) d = .rd a := by
  simp [decodeBus]

@[simp] theorem decodeBus_wrb (a : BitVec 20) (d : Word) :
    decodeBus (busWord 2#2 a) d = .wrb a (d.setWidth 8) := by
  simp [decodeBus]

@[simp] theorem decodeBus_wr (a : BitVec 20) (d : Word) :
    decodeBus (busWord 3#2 a) d = .wr a d := by
  simp [decodeBus]

/-- Every request word is one of the four bus operations at some address (R95). -/
theorem busWord_cases (q : BitVec 22) :
    ∃ a, q = busWord 0#2 a ∨ q = busWord 1#2 a ∨ q = busWord 2#2 a ∨ q = busWord 3#2 a := by
  have hq (k : BitVec 2) := busWord_of_fields q k
  refine ⟨q.extractLsb' 0 20, ?_⟩
  cases hw : q.getLsbD 21 <;> cases hs : q.getLsbD 20 <;> rw [hw, hs] at hq
  · exact .inl (hq 0 rfl rfl).symm
  · exact .inr (.inl (hq 1 rfl rfl).symm)
  · exact .inr (.inr (.inl (hq 2 rfl rfl).symm))
  · exact .inr (.inr (.inr (hq 3 rfl rfl).symm))

theorem wellFormed_decodeBus (q : BitVec 22) (d : Word) : (decodeBus q d).wellFormed = true := by
  obtain ⟨a, rfl | rfl | rfl | rfl⟩ := busWord_cases q
  · rw [decodeBus_rdb]; rfl
  · rw [decodeBus_rd]; rfl
  · rw [decodeBus_wrb]; rfl
  · rw [decodeBus_wr]; rfl

/-- A request encodes back to its word, beside the data that its access carries: none for a read, the low byte for a byte write, all of it for a word write (R95, R210). -/
theorem encode_decodeBus (q : BitVec 22) (d : Word) : ∃ d' : Word,
    encode (decodeBus q d) = .host (.bus q d') ∧
    (q.getLsbD 21 = true → q.getLsbD 20 = true → d' = d) ∧
    (q.getLsbD 21 = true → q.getLsbD 20 = false → d'.toNat = d.toNat % 256) := by
  obtain ⟨a, rfl | rfl | rfl | rfl⟩ := busWord_cases q
  · rw [decodeBus_rdb]; exact ⟨0, rfl, by simp, by simp⟩
  · rw [decodeBus_rd]; exact ⟨0, rfl, by simp, by simp⟩
  · rw [decodeBus_wrb]
    refine ⟨(d.setWidth 8).setWidth 32, rfl, by simp, fun _ _ => ?_⟩
    simp only [BitVec.toNat_setWidth]; omega
  · rw [decodeBus_wr]; exact ⟨d, rfl, fun _ _ => rfl, by simp⟩

/- ## Replies -/

/-- The reply is a NACK that names the command in flight (R100). -/
def ReplyKey.Nacks (k : ReplyKey) : Prop := k.id = nackType ∧ k.mismatch = false

/-- The reply is an ACK that names the command in flight (R100). -/
def ReplyKey.Acks (k : ReplyKey) : Prop := k.id = ackType ∧ k.mismatch = false

/-- A reply id is one type at most, so testing NACK first hides no ACK (R187). -/
theorem ReplyKey.Nacks.not_acks {k : ReplyKey} (h : k.Nacks) : ¬ k.Acks := by
  intro ha
  exact absurd (h.1.symm.trans ha.1) (by decide)

/-- Which class a decoded frame has (R100, R187). -/
theorem decodeReply_cases (k : ReplyKey) :
    (k.Nacks ∧ decodeReply k = .nackMatch) ∨ (k.Acks ∧ decodeReply k = .ackMatch) ∨
    ((¬ k.Nacks ∧ ¬ k.Acks) ∧ decodeReply k = .unrelated k.id k.mismatch) := by
  unfold decodeReply
  split_ifs with hn ha
  · exact .inl ⟨hn, rfl⟩
  · exact .inr (.inl ⟨ha, rfl⟩)
  · exact .inr (.inr ⟨⟨hn, ha⟩, rfl⟩)

theorem decodeReply_of_unrelated {k : ReplyKey} (h : ¬ k.Nacks ∧ ¬ k.Acks) :
    decodeReply k = .unrelated k.id k.mismatch := by
  obtain ⟨hn, ha⟩ := h
  exact (if_neg hn).trans (if_neg ha)

/-- The unrelated replies are all but the matching ones (R100). -/
theorem wellFormed_unrelated (k : ReplyKey) :
    (Instr.unrelated k.id k.mismatch).wellFormed = true ↔ ¬ k.Nacks ∧ ¬ k.Acks := by
  cases hm : k.mismatch <;>
    simp [Instr.wellFormed, ReplyKey.Nacks, ReplyKey.Acks, nackType, ackType, hm]

theorem decodeReply_eq_nackMatch (k : ReplyKey) : decodeReply k = .nackMatch ↔ k.Nacks := by
  rcases decodeReply_cases k with ⟨hn, h⟩ | ⟨ha, h⟩ | ⟨⟨hn, -⟩, h⟩
  · simp [h, hn]
  · have hn : ¬ k.Nacks := fun hn => hn.not_acks ha
    simp [h, hn]
  · simp [h, hn]

theorem decodeReply_eq_ackMatch (k : ReplyKey) : decodeReply k = .ackMatch ↔ k.Acks := by
  rcases decodeReply_cases k with ⟨hn, h⟩ | ⟨ha, h⟩ | ⟨⟨-, ha⟩, h⟩
  · simp [h, hn.not_acks]
  · simp [h, ha]
  · simp [h, ha]

theorem decodeReply_eq_unrelated (k : ReplyKey) :
    (∃ id m, decodeReply k = .unrelated id m) ↔ ¬ k.Nacks ∧ ¬ k.Acks := by
  rcases decodeReply_cases k with ⟨hn, h⟩ | ⟨ha, h⟩ | ⟨hw, h⟩
  · simp [h, hn]
  · simp [h, ha]
  · simp [h, hw]

theorem wellFormed_decodeReply (k : ReplyKey) : (decodeReply k).wellFormed = true := by
  rcases decodeReply_cases k with ⟨-, h⟩ | ⟨-, h⟩ | ⟨hw, h⟩
  · rw [h]; rfl
  · rw [h]; rfl
  · rw [h]; exact (wellFormed_unrelated k).2 hw

theorem encode_decodeReply (k : ReplyKey) : encode (decodeReply k) = .reply k := by
  obtain ⟨id, m⟩ := k
  rcases decodeReply_cases ⟨id, m⟩ with ⟨⟨rfl, rfl⟩, h⟩ | ⟨⟨rfl, rfl⟩, h⟩ | ⟨-, h⟩
  · rw [h]; rfl
  · rw [h]; rfl
  · rw [h]; rfl

/- ## The statements -/

/-- Settles O1, by the cases of the instruction: the operands of a reserved word and of an unrelated reply decode to them again because they are well-formed, and those of a bus operation are fields of its request. -/
theorem decodeOfEncodeIsTheInstruction : Obligations.DecodeOfEncodeIsTheInstruction := by
  intro i hi
  cases i with
  | encode => rfl
  | recv => rfl
  | send => rfl
  | cmdReserved w => exact decodeCmd_of_reserved ((wellFormed_cmdReserved w).1 hi)
  | rd a => exact decodeBus_rd a 0
  | wr a d => exact decodeBus_wr a d
  | rdb a => exact decodeBus_rdb a 0
  | wrb a v =>
    calc decodeBus (busWord 2#2 a) (v.setWidth 32)
        = .wrb a ((v.setWidth 32).setWidth 8) := decodeBus_wrb ..
      _ = .wrb a v := by rw [BitVec.setWidth_setWidth_of_le v (by decide), BitVec.setWidth_eq]
  | nackMatch => rfl
  | ackMatch => rfl
  | unrelated id m => exact decodeReply_of_unrelated ((wellFormed_unrelated ⟨id, m⟩).1 hi)

/-- Settles O2, format by format. -/
theorem encodeOfDecodeIsTheObject : Obligations.EncodeOfDecodeIsTheObject := by
  refine ⟨fun r => ?_, encode_decodeCmd, encode_decodeReply, encode_decodeBus⟩
  match r with
  | .host (.cmd w) => exact wellFormed_decodeCmd w
  | .host (.bus q d) => exact wellFormed_decodeBus q d
  | .reply k => exact wellFormed_decodeReply k

/-- Settles O3, by the cases of the command word. -/
theorem commandWordSelectsOperation : Obligations.CommandWordSelectsOperation := by
  intro w
  rcases decodeCmd_cases w with ⟨rfl, -⟩ | ⟨rfl, -⟩ | ⟨rfl, -⟩ | ⟨⟨h1, h2, h3⟩, h⟩
  · decide
  · decide
  · decide
  · have h1 : w.toNat ≠ 1 := fun hw => h1 (BitVec.eq_of_toNat_eq hw)
    have h2 : w.toNat ≠ 2 := fun hw => h2 (BitVec.eq_of_toNat_eq hw)
    have h3 : w.toNat ≠ 3 := fun hw => h3 (BitVec.eq_of_toNat_eq hw)
    simp [h, h1, h2, h3]

/-- Settles O4: the decoder evaluates each word. -/
theorem wordsOfTheSpecDecode : Obligations.WordsOfTheSpecDecode := by
  unfold Obligations.WordsOfTheSpecDecode
  decide

end Sys2Proof

/-! PROOFS. The reply class of the frame just decoded (R100, R187), the wire frame byte by byte (R96, R122, R123), and commands as writes to CMD with the refusal of reserved words (R93, R104, R213). -/

namespace Sys2Proof.Machine

/- ## The class of a decoded frame -/

/-- The mismatch bit is clear when the payload's first byte is there and is the id of the command in flight (R100). -/
theorem replyKey_mismatch (s : State) : (replyKey s).mismatch = false ↔
    2 ≤ s.rxLenf.toNat ∧ memRead s.mem 0x20000 = some s.txId := by
  simp [replyKey, bufBase]

/-- Settles O5: the key's clause is the one on RX_LENF and RXBUF[0], and the decoder's classes are stated over the key. -/
theorem replyClassOfDecodedFrame : Obligations.ReplyClassOfDecodedFrame := by
  intro s
  have hn := and_congr (Iff.refl (s.rxId = nackType)) (replyKey_mismatch s)
  have ha := and_congr (Iff.refl (s.rxId = ackType)) (replyKey_mismatch s)
  exact ⟨(decodeReply_eq_nackMatch _).trans hn, (decodeReply_eq_ackMatch _).trans ha,
    (decodeReply_eq_unrelated _).trans (and_congr (not_congr hn) (not_congr ha))⟩

/- ## The wire frame -/

/-- The two bytes of a length carry its number, most significant first (R66). -/
theorem hiByte_loByte_toNat (v : BitVec 16) :
    (hiByte v).toNat * 256 + (loByte v).toNat = v.toNat := by
  have := v.isLt
  simp only [hiByte, loByte, BitVec.extractLsb'_toNat, Nat.shiftRight_eq_div_pow]
  omega

/-- A payload within the buffer has a payload_len that does not wrap (R96, R122). -/
theorem payloadLen_toNat {n : Nat} (h : n ≤ 65534) : (payloadLen n).toNat = n + 1 := by
  simp only [payloadLen, BitVec.toNat_ofNat]
  omega

/-- The payload stands from offset 5 on (R96). -/
theorem encodeFrame_payload (id : Byte) (p : List Byte) {k : Nat} (hk : k < p.length) :
    (encodeFrame id p)[5 + k]? = p[k]? := by
  simp [encodeFrame, List.getElem?_append, hk, Nat.add_comm 5 k]

/-- The checksum and the trailer stand after the payload (R96). -/
theorem encodeFrame_tail (id : Byte) (p : List Byte) (j : Nat) :
    (encodeFrame id p)[5 + p.length + j]? = [xorFold id p, trl1Byte, trl2Byte][j]? := by
  have hlen : 5 + p.length + j = p.length + j + 5 := by omega
  simp [encodeFrame, List.getElem?_append, hlen]

/-- Settles O6: the header by evaluation, the length by its two bytes, and the rest by its place after the header or after the payload. -/
theorem frameHasTheWireFormat : Obligations.FrameHasTheWireFormat := by
  intro id p hp
  have htail := encodeFrame_tail id p
  refine ⟨encodeFrame_length id p, rfl, rfl, ⟨_, _, rfl, rfl, ?_⟩, rfl,
    fun k hk => encodeFrame_payload id p hk, htail 0, ?_, ?_⟩
  · rw [hiByte_loByte_toNat, payloadLen_toNat hp]
  · rw [show 6 + p.length = 5 + p.length + 1 by omega]; exact htail 1
  · rw [show 7 + p.length = 5 + p.length + 2 by omega]; exact htail 2

/- ## Commands -/

/-- OP of the command word selects no operation (R93). -/
abbrev ReservedOp (w : Word) : Prop := opField w ≠ 1 ∧ opField w ≠ 2 ∧ opField w ≠ 3

theorem opField_toNat (w : Word) : (opField w).toNat = w.toNat % 16 := by
  simp [opField]

/-- OP is reserved when it is 0 or 4 to 15 (R93). -/
theorem reservedOp_iff (w : Word) : ReservedOp w ↔ w.toNat % 16 = 0 ∨ 4 ≤ w.toNat % 16 := by
  simp only [ReservedOp, ne_eq, ← BitVec.toNat_inj, opField_toNat, BitVec.ofNat_eq_ofNat,
    BitVec.toNat_ofNat]
  omega

/-- With no reserved bit set, a command word is its OP (R90). -/
theorem eq_opField_of_cmdRsvd {w : Word} (h : cmdRsvd w = 0) : w = (opField w).setWidth 32 := by
  have hlt : w.toNat < 2 ^ 4 := (upper_eq_zero_iff w 4 28 rfl).1 h
  apply BitVec.eq_of_toNat_eq
  simp only [BitVec.toNat_setWidth, opField_toNat]
  omega

/-- A reserved word whose OP is legal has a reserved bit set (R93). -/
theorem cmdRsvd_ne_zero {w : Word} (hw : w ≠ 1 ∧ w ≠ 2 ∧ w ≠ 3)
    (hop : ¬ ReservedOp w) : cmdRsvd w ≠ 0 := by
  obtain ⟨h1, h2, h3⟩ := hw
  intro h
  have heq := eq_opField_of_cmdRsvd h
  refine hop ⟨fun ho => h1 ?_, fun ho => h2 ?_, fun ho => h3 ?_⟩
  · rw [heq, ho]; rfl
  · rw [heq, ho]; rfl
  · rw [heq, ho]; rfl

/-- A reserved command of an idle block is refused for its OP (R93). -/
theorem exec_cmdReserved_opcode {w : Word} {s : State} (hb : s.busy = false) (hop : ReservedOp w) :
    exec (.cmdReserved w) s = refuse .reservedOpcode s := by
  rw [exec, execCmdReserved, hb, if_neg Bool.false_ne_true, if_pos hop]

/-- A reserved command of an idle block, with a legal OP, is refused for its reserved bits (R93). -/
theorem exec_cmdReserved_bits {w : Word} {s : State} (hb : s.busy = false) (hop : ¬ ReservedOp w) :
    exec (.cmdReserved w) s = refuse .reservedBits s := by
  rw [exec, execCmdReserved, hb, if_neg Bool.false_ne_true, if_neg hop]

/-- Settles O16: which of the two refusals it is depends on OP alone. -/
theorem reservedCommandsAreRefused : Obligations.ReservedCommandsAreRefused := by
  intro w s _ hb
  refine ⟨fun h => exec_cmdReserved_opcode hb ((reservedOp_iff w).2 h), fun hlo hhi => ?_⟩
  have hop : ¬ ReservedOp w := by rw [reservedOp_iff]; omega
  exact exec_cmdReserved_bits hb hop

/-- A write of a reserved word to CMD is refused as the reserved command is (R93, R213). -/
theorem cmdWrite_of_reserved {w : Word} {s : State} (hw : w ≠ 1 ∧ w ≠ 2 ∧ w ≠ 3)
    (hb : s.busy = false) : cmdWrite w s = exec (.cmdReserved w) s := by
  by_cases hop : ReservedOp w
  · rw [exec_cmdReserved_opcode hb hop, cmdWrite, if_pos hop]
  · rw [exec_cmdReserved_bits hb hop, cmdWrite, if_neg hop, if_pos (cmdRsvd_ne_zero hw hop)]

/-- A WR to CMD is refused while an operation runs, and otherwise goes on with `cmdWrite` (R212). -/
theorem exec_wr_cmd (w : Word) (s : State) :
    exec (.wr 0 w) s = if s.busy then refuse .busy s else cmdWrite w s :=
  exec_wr_reg .cmd w s

/-- Settles O10, by the cases of the command word: a legal word starts its operation in both spellings, and a reserved one is refused alike. -/
theorem writeToCmdIsTheCommand : Obligations.WriteToCmdIsTheCommand := by
  intro w s
  rw [exec_wr_cmd]
  rcases decodeCmd_cases w with ⟨rfl, h⟩ | ⟨rfl, h⟩ | ⟨rfl, h⟩ | ⟨hw, h⟩
  · rw [h]; rfl
  · rw [h]; rfl
  · rw [h]; rfl
  · rw [h]
    cases hb : s.busy with
    | true => simp [exec, execCmdReserved, hb]
    | false => exact cmdWrite_of_reserved hw hb

end Sys2Proof.Machine

/-! PROOFS. The checksum's algebra (R120, R121), and what ENCODE and SEND do at each of their stops and over a written payload (R92, R125 to R127, R213, R242). -/

namespace Sys2Proof.Machine

/- ## The checksum -/

/-- The fold goes through a payload from left to right (R120). -/
theorem xorFold_append (id : Byte) (p q : List Byte) :
    xorFold id (p ++ q) = xorFold (xorFold id p) q :=
  List.foldl_append

@[simp] theorem xorFold_cons (id b : Byte) (p : List Byte) :
    xorFold id (b :: p) = xorFold (id ^^^ b) p := rfl

/-- The order of the payload's bytes does not matter (R121). -/
theorem xorFold_perm (id : Byte) {p q : List Byte} (h : p.Perm q) : xorFold id p = xorFold id q :=
  h.foldl_eq' (fun b _ c _ x => by rw [BitVec.xor_assoc, BitVec.xor_comm b c, BitVec.xor_assoc]) id

/-- A change of the id changes the same bits of the checksum (R121). -/
theorem xorFold_xor_id (id m : Byte) (p : List Byte) :
    xorFold (id ^^^ m) p = xorFold id p ^^^ m := by
  induction p generalizing id with
  | nil => rfl
  | cons b p ih =>
    calc xorFold (id ^^^ m ^^^ b) p
        = xorFold (id ^^^ b ^^^ m) p := by rw [BitVec.xor_assoc, BitVec.xor_comm m b, BitVec.xor_assoc]
      _ = xorFold (id ^^^ b) p ^^^ m := ih _

/-- A change of a payload byte changes the same bits of the checksum (R121). -/
theorem xorFold_xor_byte (id b m : Byte) (p q : List Byte) :
    xorFold id (p ++ (b ^^^ m) :: q) = xorFold id (p ++ b :: q) ^^^ m := by
  rw [xorFold_append, xorFold_append, xorFold_cons, xorFold_cons, ← BitVec.xor_assoc, xorFold_xor_id]

/-- Two equal neighbours cancel (R121). -/
theorem xorFold_cancel (id b : Byte) (p q : List Byte) :
    xorFold id (p ++ b :: b :: q) = xorFold id (p ++ q) := by
  rw [xorFold_append, xorFold_append, xorFold_cons, xorFold_cons, BitVec.xor_assoc, BitVec.xor_self,
    BitVec.xor_zero]

/-- The same change of two payload bytes goes unseen (R121). -/
theorem xorFold_xor_two (id b c m : Byte) (p q r : List Byte) :
    xorFold id (p ++ (b ^^^ m) :: q ++ (c ^^^ m) :: r) = xorFold id (p ++ b :: q ++ c :: r) := by
  rw [xorFold_xor_byte, List.append_assoc, List.cons_append, xorFold_xor_byte, BitVec.xor_assoc,
    BitVec.xor_self, BitVec.xor_zero, List.append_assoc, List.cons_append]

/-- Settles O7: order and cancelling come from the algebra of exclusive or, and a changed byte from a changed id, since the fold after that byte is a fold with another id. -/
theorem checksumAlgebra : Obligations.ChecksumAlgebra :=
  ⟨fun id _ _ h => xorFold_perm id h, fun _ => rfl, fun id p q b => xorFold_cancel id b p q,
    fun id p m => xorFold_xor_id id m p, fun id p q b m => xorFold_xor_byte id b m p q,
    fun id p q r b c m => xorFold_xor_two id b c m p q r⟩

/- ## The three outcomes of ENCODE and SEND -/

theorem txLen_eq_max_iff (s : State) : s.txLen = 65535 ↔ s.txLen.toNat = 65535 := by
  rw [← BitVec.toNat_inj]; rfl

/-- The payload is not there exactly when a byte of it was never written (R126). -/
theorem txPayload_eq_none {s : State} :
    txPayload s = none ↔ ∃ k, k < s.txLen.toNat ∧ memRead s.mem (0x10000 + k) = none :=
  memReadBytes_eq_none

theorem exec_encode_of_busy {s : State} (hb : s.busy = true) : exec .encode s = refuse .busy s := by
  rw [exec, execEncode, if_pos hb]

theorem exec_encode_of_idle {s : State} (hb : s.busy = false) : exec .encode s = startEncode s := by
  rw [exec, execEncode, hb, if_neg Bool.false_ne_true]

theorem exec_send_of_idle {s : State} (hb : s.busy = false) : exec .send s = startSend s := by
  rw [exec, execSend, hb, if_neg Bool.false_ne_true]

theorem exec_recv_of_idle {s : State} (hb : s.busy = false) : exec .recv s = startRecv s := by
  rw [exec, execRecv, hb, if_neg Bool.false_ne_true]

theorem startEncode_overlong {s : State} (hl : s.txLen = 65535) :
    startEncode s = refuse .txLenOverflow s := by
  rw [startEncode, if_pos hl]

theorem startSend_overlong {s : State} (hl : s.txLen = 65535) :
    startSend s = refuse .txLenOverflow s := by
  rw [startSend, if_pos hl]

theorem startEncode_unwritten {s : State} (hl : s.txLen ≠ 65535) (hp : txPayload s = none) :
    startEncode s = raiseUninit (commandStart .encode s) := by
  rw [startEncode, if_neg hl, buildFrame_none hp]

theorem startSend_unwritten {s : State} (hl : s.txLen ≠ 65535) (hp : txPayload s = none) :
    startSend s = raiseUninit (commandStart .send s) := by
  rw [startSend, if_neg hl, buildFrame_none hp]

theorem startEncode_written {s : State} {p : List Byte} (hl : s.txLen ≠ 65535)
    (hp : txPayload s = some p) :
    startEncode s = .next (settle (finish .ok false 0 (built .encode p s))) := by
  rw [startEncode, if_neg hl, buildFrame_some hp]

theorem startSend_written {s : State} {p : List Byte} (hl : s.txLen ≠ 65535)
    (hp : txPayload s = some p) :
    startSend s = .next (settle { built .send p s with sess := .sending, txpend := true }) := by
  rw [startSend, if_neg hl, buildFrame_some hp]

/- ## The stops -/

/-- Settles O17: the length is checked before anything is written, and RECV does not look at it. -/
theorem overlongPayloadIsRefused : Obligations.OverlongPayloadIsRefused := by
  intro s hb hlen
  have hl := (txLen_eq_max_iff s).2 hlen
  rw [exec_encode_of_idle hb, exec_send_of_idle hb, exec_recv_of_idle hb]
  exact ⟨startEncode_overlong hl, startSend_overlong hl, _, rfl⟩

/-- Settles O20: the frame is built after the command start, and with a byte unwritten there is no payload to build it from. -/
theorem unwrittenPayloadFaults : Obligations.UnwrittenPayloadFaults := by
  intro s k hb hlen hk hread
  have hl : s.txLen ≠ 65535 := mt (txLen_eq_max_iff s).1 hlen
  have hp : txPayload s = none := txPayload_eq_none.2 ⟨k, hk, hread⟩
  rw [exec_encode_of_idle hb, exec_send_of_idle hb]
  exact ⟨startEncode_unwritten hl hp, startSend_unwritten hl hp⟩

/- ## ENCODE and SEND over a written payload -/

/-- Settles O21: over a written payload the operation has ended when Settle runs, so only the byte request is cleared; the three stops are the checks in their order. -/
theorem encodeCompletes : Obligations.EncodeCompletes := by
  intro s
  refine ⟨fun p hb hd hlen hp => ?_, exec_encode_of_busy, fun hb hlen => ?_, fun hb hlen hex => ?_⟩
  · have hl : s.txLen ≠ 65535 := mt (txLen_eq_max_iff s).1 hlen
    have hrest : settle (finish .ok false 0 (built .encode p s)) =
        { finish .ok false 0 (built .encode p s) with rxpend := false } :=
      settle_of_idle rfl hd
    rw [exec_encode_of_idle hb, startEncode_written hl hp, hrest]
    rfl
  · rw [exec_encode_of_idle hb]
    exact startEncode_overlong ((txLen_eq_max_iff s).2 hlen)
  · have hl : s.txLen ≠ 65535 := mt (txLen_eq_max_iff s).1 hlen
    rw [exec_encode_of_idle hb]
    exact ⟨_, startEncode_unwritten hl (txPayload_eq_none.2 hex)⟩

/-- The memory that ENCODE and SEND leave over a written payload (R126). -/
theorem frameCommand_mem {i : Instr} {s t : State} {p : List Byte} (hi : i = .encode ∨ i = .send)
    (hp : txPayload s = some p) (h : exec i s = .next t) :
    t.mem = memWriteBytes s.mem 0x40000 (encodeFrame s.txId p) := by
  rcases hi with rfl | rfl
  · simp only [exec, execEncode, refuse] at h
    split_ifs at h
    by_cases hl : s.txLen = 65535
    · rw [startEncode_overlong hl] at h; cases h
    · rw [startEncode_written hl hp] at h; cases h
      exact (settle_same _).mem
  · simp only [exec, execSend, refuse] at h
    split_ifs at h
    by_cases hl : s.txLen = 65535
    · rw [startSend_overlong hl] at h; cases h
    · rw [startSend_written hl hp] at h; cases h
      exact (settle_same _).mem

/-- Settles O24: the memory left is the memory before with the frame's run written, which is TX_LEN + 8 bytes long. -/
theorem commandsStoreOnlyTheFrame : Obligations.CommandsStoreOnlyTheFrame := by
  intro i s t p hi hp h
  have hlen : (encodeFrame s.txId p).length = s.txLen.toNat + 8 := by
    rw [encodeFrame_length, memReadBytes_length hp]
  rw [frameCommand_mem hi hp h]
  exact ⟨fun j hj => memRead_memWriteBytes_inside _ _ _ _ (by omega),
    fun a ha => memRead_memWriteBytes_outside _ _ _ _ (by omega)⟩

end Sys2Proof.Machine

/-! PROOFS. Every step keeps the running checksum equal to the fold of the id and the payload bytes in RXBUF (R120, R151, R153, R154). -/

namespace Sys2Proof.Machine

/-- The decode has started its running checksum: it is past the id byte (R151). -/
def checksumRuns (d : Phase) : Prop :=
  d = .payload ∨ d = .checksum ∨ d = .trailer0 ∨ d = .trailer1

/-- Before the id byte, and with the decoder idle, there is no running checksum to speak of. -/
theorem ChecksumInv.of_not_runs {s : State} (h : ¬ checksumRuns s.dec) : ChecksumInv s :=
  fun hd => absurd hd h

theorem not_checksumRuns_idle {s : State} (h : s.dec = .idle) : ¬ checksumRuns s.dec := by
  simp [checksumRuns, h]

theorem not_checksumRuns_sync {s : State} (h : s.dec = .sync) : ¬ checksumRuns s.dec := by
  simp [checksumRuns, h]

/-- The id byte starts the running checksum with no payload byte stored (R151). -/
theorem ChecksumInv.of_empty {s : State} (hcount : s.rxCount = 0) (hck : s.ckCalc = s.rxId) :
    ChecksumInv s :=
  fun _ => ⟨[], by rw [hcount]; rfl, hck⟩

/-- A decode that goes on without storing a byte keeps its checksum. -/
theorem ChecksumInv.of_same {s t : State} (h : ChecksumInv s) (hs : checksumRuns s.dec)
    (hmem : t.mem = s.mem) (hcount : t.rxCount = s.rxCount) (hck : t.ckCalc = s.ckCalc)
    (hid : t.rxId = s.rxId) : ChecksumInv t := by
  intro _
  rw [hmem, hcount, hck, hid]
  exact h hs

/-- The PAYLOAD phase as one update: what it stores, counts and folds, and where it ends (R153). -/
theorem payloadByte_eq (b : Byte) (v : State) :
    payloadByte b v = { v with
      mem := memWrite v.mem (0x20000 + v.rxCount.toNat) b
      ckCalc := v.ckCalc ^^^ b
      rxCount := v.rxCount + 1
      dec := if v.rxCount + 1 = v.rxLenf - 1 then .checksum else v.dec } := by
  unfold payloadByte
  dsimp only
  split <;> rfl

/-- A payload byte is stored behind the bytes before it and folded after them (R120, R153). -/
theorem ChecksumInv.of_payloadByte {v : State} (b : Byte) (h : ChecksumInv v) (hp : ParserInv v)
    (hd : v.dec = .payload) : ChecksumInv (payloadByte b v) := by
  obtain ⟨p, hread, hck⟩ := h (.inl hd)
  have hsucc : (v.rxCount + 1).toNat = v.rxCount.toNat + 1 := by
    have hopen := hp.payload_open hd
    have hlen := v.rxLenf.isLt
    rw [BitVec.toNat_add]; simp; omega
  rw [payloadByte_eq]
  refine fun _ => ⟨p ++ [b], ?_, ?_⟩
  · simp only [hsucc]
    exact memReadBytes_memWrite_next b hread
  · simp only [hck, xorFold_append]
    rfl

/-- An answer of RXCH keeps the checksum, up to Settle (R144 to R158). -/
theorem ChecksumInv.of_rxStep {v u : State} {e : RxEvent} (h : ChecksumInv v) (hp : ParserInv v)
    (hu : RxStep v e u) : ChecksumInv u := by
  cases hu with
  | idle => exact h
  | scan b hd => exact .of_not_runs (not_checksumRuns_sync hd)
  | marker | lenHi | lenLo => exact .of_not_runs (by simp [checksumRuns, lenHiByte, lenLoByte])
  | idNoPayload b hd | idPayload b hd => exact .of_empty (hp.no_payload_yet (by simp [hd])) rfl
  | payload b hd => exact h.of_payloadByte b hp hd
  | checksum b hd | trailer0 b hd =>
    exact h.of_same (by simp [checksumRuns, hd]) rfl rfl rfl rfl
  | ends he hend => exact .of_not_runs (not_checksumRuns_idle (decodeEnd_dec hend))

/-- An input-free transition leaves no running checksum: the decoder is idle or starts a scan (R143, R184). -/
theorem not_checksumRuns_of_settleStep {s t : State} (h : settleStep s = some t) :
    ¬ checksumRuns t.dec := by
  rcases settleStep_cases h with ⟨-, -, rfl⟩ | ⟨-, -, hd, -, rfl⟩ | ⟨-, -, -, -, rfl⟩
  · exact not_checksumRuns_idle (decodeEnd_dec (syncTimeoutAct_decodeEnd s))
  · exact not_checksumRuns_idle hd
  · exact not_checksumRuns_sync rfl

theorem ChecksumInv.settle {s : State} (h : ChecksumInv s) : ChecksumInv (settle s) :=
  settle_induct ChecksumInv (fun _ _ _ ht => .of_not_runs (not_checksumRuns_of_settleStep ht))
    (fun _ _ h => h) h

/-- A host access keeps the checksum: it writes memory only while no decode runs (R214). -/
theorem ChecksumInv.of_hostStep {s t : State} (h : ChecksumInv s) (hc : ControlInv s)
    (ht : HostStep s t) : ChecksumInv t := by
  cases ht with
  | read | syncMax | ackMax | txId | txLen => exact h
  | byteWrite a v hb => exact .of_not_runs (not_checksumRuns_idle (hc.of_not_busy hb).1)
  | encode p hb =>
    have hd : (finish .ok false 0 (built .encode p s)).dec = .idle := (hc.of_not_busy hb).1
    exact (ChecksumInv.of_not_runs (not_checksumRuns_idle hd)).settle
  | recv hb => exact (ChecksumInv.of_not_runs (not_checksumRuns_sync rfl)).settle
  | send p hb =>
    have hd : (built .send p s).dec = .idle := (hc.of_not_busy hb).1
    have hw : ChecksumInv { built .send p s with sess := .sending, txpend := true } :=
      .of_not_runs (not_checksumRuns_idle hd)
    exact hw.settle

/-- An answer of TXCH keeps the checksum (R181, R182). -/
theorem ChecksumInv.of_blockTx {s : State} (a : TxAnswer) (h : ChecksumInv s) :
    ChecksumInv (blockTx a s) := by
  cases a <;> exact h

/-- Settles O48: only the id byte and the payload bytes touch the checksum, and each of them with what it stores and counts. -/
theorem everyStepKeepsTheChecksum : Obligations.EveryStepKeepsTheChecksum := by
  intro s t hc hp h hstep
  rcases step_cases hstep with ⟨rest, -, rfl⟩ | ⟨r, rest, rs, -, -, hx⟩ | ⟨a, rest, as, -, rfl⟩ |
    ⟨e, rest, es, u, -, hu, rfl⟩ | ⟨rfl, -⟩
  · exact checksumInv_reset
  · have hv : ChecksumInv { s with sched := rest, hostQ := rs } := h
    exact hv.of_hostStep { hc with } (exec_decodeHost_next hx)
  · have hv : ChecksumInv { s with sched := rest, txQ := as } := h
    exact (hv.of_blockTx a).settle
  · have hv : ChecksumInv (rxTaken s rest es) := h
    exact (hv.of_rxStep { hp with } hu).settle
  · exact h

end Sys2Proof.Machine

/-! PROOFS. One byte in each phase of a decode (R144, R148, R149, R151, R153, R155, R156, R158), how a RECV starts and ends (R141, R143, R146, R170), and the failures that end it (R241). -/

namespace Sys2Proof.Machine

/- ## The byte that each phase waits for -/

theorem phaseByte_of_sync {v : State} (b : Byte) (h : v.dec = .sync) :
    phaseByte b v = (syncByte b v, none) := by
  rw [phaseByte, h]

theorem phaseByte_of_lenHi {v : State} (b : Byte) (h : v.dec = .lenHi) :
    phaseByte b v = (lenHiByte b v, none) := by
  rw [phaseByte, h]

theorem phaseByte_of_lenLo {v : State} (b : Byte) (h : v.dec = .lenLo) :
    phaseByte b v = (lenLoByte b v, none) := by
  rw [phaseByte, h]

theorem phaseByte_of_msgId {v : State} (b : Byte) (h : v.dec = .msgId) :
    phaseByte b v = msgIdByte b v := by
  rw [phaseByte, h]

theorem phaseByte_of_payload {v : State} (b : Byte) (h : v.dec = .payload) :
    phaseByte b v = (payloadByte b v, none) := by
  rw [phaseByte, h]

theorem phaseByte_of_checksum {v : State} (b : Byte) (h : v.dec = .checksum) :
    phaseByte b v = checksumByte b v := by
  rw [phaseByte, h]

theorem phaseByte_of_trailer0 {v : State} (b : Byte) (h : v.dec = .trailer0) :
    phaseByte b v = (trailer0Byte b v, none) := by
  rw [phaseByte, h]

theorem phaseByte_of_trailer1 {v : State} (b : Byte) (h : v.dec = .trailer1) :
    phaseByte b v = trailer1Byte b v := by
  rw [phaseByte, h]

theorem markerMatch_iff (s : State) (b : Byte) :
    markerMatch s b = true ↔ s.prevValid = true ∧ s.prev = sync1 ∧ b = sync2 := by
  simp [markerMatch, and_assoc]

theorem syncByte_of_match {v : State} {b : Byte} (h : markerMatch v b = true) :
    syncByte b v = { v with
      syncCnt := v.syncCnt + 1, prev := b, prevValid := true, syncDisc := v.syncCnt + 1 - 2,
      dec := .lenHi } := by
  rw [syncByte, if_pos h]

theorem syncByte_of_no_match {v : State} {b : Byte} (h : ¬ markerMatch v b = true) :
    syncByte b v = { v with syncCnt := v.syncCnt + 1, prev := b, prevValid := true } := by
  rw [syncByte, if_neg h]

/-- The payload byte after `c` others is the last of those that the length `n` announces (R153). -/
theorem payload_last_iff {c n : BitVec 16} (h : c.toNat + 1 < n.toNat) :
    c + 1 = n - 1 ↔ c.toNat + 2 = n.toNat := by
  bv_omega

/- ## The bytes of a length -/

theorem ofBytes16_toNat (hi lo : Byte) : (ofBytes16 hi lo).toNat = hi.toNat * 256 + lo.toNat := by
  rw [ofBytes16, BitVec.toNat_append, ← Nat.shiftLeft_add_eq_or_of_lt lo.isLt, Nat.shiftLeft_eq]

theorem loByte_toNat (v : BitVec 16) : (loByte v).toNat = v.toNat % 256 := by
  simp [loByte]

theorem hiByte_toNat (v : BitVec 16) : (hiByte v).toNat = v.toNat / 256 := by
  have := hiByte_loByte_toNat v
  rw [loByte_toNat] at this
  omega

/- ## Settle of a decode that goes on -/

/-- Settle of a decode that goes on only makes its next byte request (R68). -/
theorem settle_of_waiting {t : State} (ht : t.rxpend = true) (hi : t.dec ≠ .idle)
    (hrest : settleStep t = none) : settle { t with rxpend := false } = t := by
  have hrest' : settleStep { t with rxpend := false } = none :=
    (settleStep_withRxpend_eq_none false t).2 hrest
  have hpend : (t.dec != .idle) = t.rxpend := by rw [ht, bne_iff_ne]; exact hi
  rw [settle_of_rest hrest']
  simp only [hpend]

/- ## The end of a decode -/

/-- A decode's end other than OK runs no reply class (R141, R185). -/
theorem runBlock_endDecode_of_ne_ok {c : Code} (hc : c ≠ .ok) (f : Bool) (p : BitVec 4) (w : State) :
    runBlock (endDecode c f p w) = .next (settle (endDecode c f p w).1) := by
  rcases endDecode_cases c f p w with ⟨-, h⟩ | ⟨-, -, -, h⟩ | ⟨-, hok, -⟩ | ⟨-, -, -, h⟩
  · rw [h]; rfl
  · rw [h]; rfl
  · exact absurd hok hc
  · rw [h]; rfl

/-- What a RECV leaves whose decode ends in the state `w` with the outcome `o` (R141, R231). -/
def recvEnded (o : ResultReg) (w : State) : State := finish o.code o.chFatal o.chPhase (ended o w)

/-- A RECV that has ended is at rest (R9). -/
theorem settle_recvEnded (o : ResultReg) (w : State) : settle (recvEnded o w) = recvEnded o w :=
  settle_of_idle rfl rfl

/-- Inside RECV, a decode's end is the end of the operation (R141). -/
theorem endDecode_of_recv {w : State} (hop : w.op = .recv) (c : Code) (f : Bool) (p : BitVec 4) :
    endDecode c f p w = (recvEnded ⟨c, f, p⟩ w, none) := by
  rw [endDecode, if_pos hop]; rfl

theorem settle_endDecode_of_recv {w : State} (hop : w.op = .recv) (c : Code) (f : Bool)
    (p : BitVec 4) : settle (endDecode c f p w).1 = recvEnded ⟨c, f, p⟩ w := by
  rw [endDecode_of_recv hop, settle_recvEnded]

/-- Inside RECV, a scan that has used its budget ends SYNC_TIMEOUT in Settle (R143). -/
theorem settle_of_budgetSpent_recv {s : State} (hd : s.dec = .sync) (hop : s.op = .recv)
    (hc : s.syncMax ≤ s.syncCnt) :
    settle s = recvEnded ⟨.syncTimeout, false, 0⟩ { s with syncDisc := s.syncCnt } := by
  have hstep : settleStep s = some (syncTimeoutAct s) := by
    rw [settleStep, if_pos ((budgetSpent_iff s).2 ⟨hd, hc⟩)]
  rw [settle_of_some hstep, syncTimeoutAct]
  exact settle_endDecode_of_recv (w := { s with syncDisc := s.syncCnt }) hop _ _ _

/- ## One step for one byte -/

section

variable {s : State} {b : Byte} {rest : List Agent} {es : List RxEvent}

/-- A step in which RXCH answers with a byte. -/
theorem step_byte (h : rxAnswers s (.byte b) rest es) :
    step s = runBlock (phaseByte b (rxTaken s rest es)) :=
  step_rx h

/-- A step in which the byte that RXCH answers leads past the scan and on to the state `t`. -/
theorem step_goesOn {t : State} (h : rxAnswers s (.byte b) rest es) (ht : t.rxpend = s.rxpend)
    (hi : t.dec ≠ .idle) (hs : t.dec ≠ .sync)
    (hb : phaseByte b (rxTaken s rest es) = ({ t with rxpend := false }, none)) :
    step s = .next t := by
  have hpend : s.rxpend = true := h.2.2
  rw [step_byte h, hb]
  exact congrArg _ (settle_of_waiting (ht.trans hpend) hi (settleStep_of_phase hi hs))

/-- The marker's second byte ends the scan (R144). -/
theorem step_marker (h : rxAnswers s (.byte b) rest es) (hd : s.dec = .sync)
    (hm : markerMatch s b = true) :
    step s = .next { s with
      sched := rest, rxQ := es, syncCnt := s.syncCnt + 1, prev := b, prevValid := true,
      syncDisc := s.syncCnt - 1, dec := .lenHi } := by
  have hdisc : s.syncCnt + 1 - 2 = s.syncCnt - 1 := by bv_omega
  have hv : markerMatch (rxTaken s rest es) b = true := hm
  refine step_goesOn h rfl Phase.noConfusion Phase.noConfusion ?_
  rw [phaseByte_of_sync (v := rxTaken s rest es) b hd, syncByte_of_match hv, ← hdisc]
  rfl

/-- Any other byte of the scan is counted and kept, and Settle then checks the budget (R143, R144). -/
theorem step_scan (h : rxAnswers s (.byte b) rest es) (hd : s.dec = .sync)
    (hm : ¬ markerMatch s b = true) :
    step s = .next (settle { s with
      sched := rest, rxQ := es, syncCnt := s.syncCnt + 1, prev := b, prevValid := true,
      rxpend := false }) := by
  have hv : ¬ markerMatch (rxTaken s rest es) b = true := hm
  rw [step_byte h, phaseByte_of_sync (v := rxTaken s rest es) b hd, syncByte_of_no_match hv]
  rfl

theorem step_lenHi (h : rxAnswers s (.byte b) rest es) (hd : s.dec = .lenHi) :
    step s = .next { s with
      sched := rest, rxQ := es, rxLenf := ofBytes16 b (loByte s.rxLenf), dec := .lenLo } :=
  step_goesOn h rfl Phase.noConfusion Phase.noConfusion (phaseByte_of_lenHi b hd)

theorem step_lenLo (h : rxAnswers s (.byte b) rest es) (hd : s.dec = .lenLo) :
    step s = .next { s with
      sched := rest, rxQ := es, rxLenf := ofBytes16 (hiByte s.rxLenf) b, dec := .msgId } :=
  step_goesOn h rfl Phase.noConfusion Phase.noConfusion (phaseByte_of_lenLo b hd)

theorem step_trailer0 (h : rxAnswers s (.byte b) rest es) (hd : s.dec = .trailer0) :
    step s = .next { s with sched := rest, rxQ := es, trl0 := b, dec := .trailer1 } :=
  step_goesOn h rfl Phase.noConfusion Phase.noConfusion (phaseByte_of_trailer0 b hd)

/-- The id byte of a frame with a length above 0 starts the running checksum (R151). -/
theorem step_msgId (h : rxAnswers s (.byte b) rest es) (hd : s.dec = .msgId)
    (hlen : s.rxLenf.toNat ≠ 0) :
    step s = .next { s with
      sched := rest, rxQ := es, rxId := b, ckCalc := b,
      dec := if s.rxLenf.toNat = 1 then .checksum else .payload } := by
  have hne : ¬ (rxTaken s rest es).rxLenf = 0 := fun h0 => hlen (congrArg BitVec.toNat h0)
  by_cases h1 : s.rxLenf.toNat = 1
  · have hone : (rxTaken s rest es).rxLenf = 1 := BitVec.eq_of_toNat_eq h1
    rw [if_pos h1]
    refine step_goesOn h rfl Phase.noConfusion Phase.noConfusion ?_
    rw [phaseByte_of_msgId (v := rxTaken s rest es) b hd, msgIdByte, if_neg hne, if_pos hone]
    rfl
  · have hmore : ¬ (rxTaken s rest es).rxLenf = 1 := fun hx => h1 (congrArg BitVec.toNat hx)
    rw [if_neg h1]
    refine step_goesOn h rfl Phase.noConfusion Phase.noConfusion ?_
    rw [phaseByte_of_msgId (v := rxTaken s rest es) b hd, msgIdByte, if_neg hne, if_neg hmore]
    rfl

/-- A payload byte is stored and folded, and the last one ends the phase (R153). -/
theorem step_payload (h : rxAnswers s (.byte b) rest es) (hd : s.dec = .payload)
    (hopen : s.rxCount.toNat + 1 < s.rxLenf.toNat) :
    step s = .next { s with
      sched := rest, rxQ := es, mem := memWrite s.mem (0x20000 + s.rxCount.toNat) b,
      ckCalc := s.ckCalc ^^^ b, rxCount := s.rxCount + 1,
      dec := if s.rxCount.toNat + 2 = s.rxLenf.toNat then .checksum else .payload } := by
  refine step_goesOn h rfl (by dsimp only; split <;> simp) (by dsimp only; split <;> simp) ?_
  rw [phaseByte_of_payload (v := rxTaken s rest es) b hd, payloadByte_eq]
  simp only [rxTaken, payload_last_iff hopen, hd]

theorem step_checksum (h : rxAnswers s (.byte b) rest es) (hd : s.dec = .checksum)
    (hb : b = s.ckCalc) :
    step s = .next { s with sched := rest, rxQ := es, ckRcvd := b, dec := .trailer0 } := by
  have hok : ¬ b ≠ (rxTaken s rest es).ckCalc := not_not_intro hb
  refine step_goesOn h rfl Phase.noConfusion Phase.noConfusion ?_
  rw [phaseByte_of_checksum (v := rxTaken s rest es) b hd, checksumByte, if_neg hok]
  rfl

theorem step_badChecksum (h : rxAnswers s (.byte b) rest es) (hd : s.dec = .checksum)
    (hb : b ≠ s.ckCalc) :
    step s = .next (settle (endDecode .checksumMismatch false 0
      { s with sched := rest, rxQ := es, ckRcvd := b, rxpend := false }).1) := by
  have hbad : b ≠ (rxTaken s rest es).ckCalc := hb
  rw [step_byte h, phaseByte_of_checksum (v := rxTaken s rest es) b hd, checksumByte, if_pos hbad]
  exact runBlock_endDecode_of_ne_ok Code.noConfusion ..

theorem step_badTrailer (h : rxAnswers s (.byte b) rest es) (hd : s.dec = .trailer1)
    (hb : ¬ (s.trl0 = 0x0D ∧ b = 0x0A)) :
    step s = .next (settle (endDecode .invalidTrailer false 0
      { s with sched := rest, rxQ := es, trl1 := b, rxpend := false }).1) := by
  have hbad : ¬ ((rxTaken s rest es).trl0 = trl1Byte ∧ b = trl2Byte) := hb
  rw [step_byte h, phaseByte_of_trailer1 (v := rxTaken s rest es) b hd, trailer1Byte, if_neg hbad]
  exact runBlock_endDecode_of_ne_ok Code.noConfusion ..

/-- Inside RECV, the exact trailer ends the operation with OK (R158). -/
theorem step_trailer_recv (h : rxAnswers s (.byte b) rest es) (hd : s.dec = .trailer1)
    (h0 : s.trl0 = 0x0D) (hb : b = 0x0A) (hop : s.op = .recv) :
    step s = .next (recvEnded ⟨.ok, false, 0⟩ { s with sched := rest, rxQ := es, trl1 := b }) := by
  have hok : (rxTaken s rest es).trl0 = trl1Byte ∧ b = trl2Byte := ⟨h0, hb⟩
  rw [step_byte h, phaseByte_of_trailer1 (v := rxTaken s rest es) b hd, trailer1Byte, if_pos hok,
    endDecode_of_recv (w := { rxTaken s rest es with trl1 := b }) hop]
  exact congrArg _ (settle_recvEnded _ _)

end

/- ## The phases -/

/-- Settles O35: the two branches of the scanner's rule; a scan with budget left is at rest. -/
theorem scannerConsumesAByte : Obligations.ScannerConsumesAByte := by
  intro s b rest es h hd _
  refine ⟨fun hm => step_marker h hd ((markerMatch_iff s b).2 hm),
    fun hm => ⟨step_scan h hd (mt (markerMatch_iff s b).1 hm), fun hlt => ?_⟩⟩
  have hleft : s.syncCnt + 1 < s.syncMax := by bv_omega
  have hpend : s.rxpend = true := h.2.2
  exact settle_of_waiting hpend (by simp [hd]) (settleStep_of_scan hd hleft)

/-- Settles O36: each of the three phases writes its byte's field, and the other byte of the length stays. -/
theorem plainPhasesKeepTheirByte : Obligations.PlainPhasesKeepTheirByte := by
  intro s b rest es h
  refine ⟨fun hd => ⟨_, ?_, step_lenHi h hd⟩, fun hd => ⟨_, ?_, step_lenLo h hd⟩, step_trailer0 h⟩
  · rw [ofBytes16_toNat, loByte_toNat]
  · rw [ofBytes16_toNat, hiByte_toNat]

/-- Settles O37: the three branches on the length, of which the length 0 ends the decode with a failure. -/
theorem idByteStartsTheChecksum : Obligations.IdByteStartsTheChecksum := by
  intro s b rest es h hd
  refine ⟨fun hlen => step_msgId h hd hlen, fun hlen => ?_⟩
  have hzero : (rxTaken s rest es).rxLenf = 0 := BitVec.eq_of_toNat_eq hlen
  rw [step_byte h, phaseByte_of_msgId (v := rxTaken s rest es) b hd, msgIdByte, if_pos hzero]
  exact runBlock_endDecode_of_ne_ok Code.noConfusion ..

/-- Settles O38: the one write goes to RXBUF[RX_COUNT], and a write leaves every other byte alone. -/
theorem payloadByteIsStored : Obligations.PayloadByteIsStored :=
  fun s b _ _ h hd hopen => ⟨memWrite s.mem (0x20000 + s.rxCount.toNat) b,
    memRead_memWrite_same _ _ _, fun _ ha => memRead_memWrite_other _ _ _ _ ha, step_payload h hd hopen⟩

/-- Settles O39: the two branches of the checksum's rule, and the trailer's branch for OK inside RECV. -/
theorem checkedFrameEndsRecvOk : Obligations.CheckedFrameEndsRecvOk :=
  fun _ _ _ _ h => ⟨fun hd hb => step_checksum h hd hb, fun hd hb => step_badChecksum h hd hb,
    fun hd h0 hb hop => step_trailer_recv h hd h0 hb hop⟩

/- ## The start of a RECV -/

/-- Settles O22: with a budget the fresh scan is at rest, and with none it is spent before its first byte. -/
theorem recvCompletes : Obligations.RecvCompletes := by
  intro s hb
  dsimp only
  rw [exec_recv_of_idle hb, startRecv]
  by_cases hm : s.syncMax = 0
  · have hspent : s.syncMax ≤ 0 := BitVec.le_of_eq hm
    rw [if_pos hm, settle_of_budgetSpent_recv (by rfl) (by rfl) (by exact hspent)]
    rfl
  · have hleft : 0 < s.syncMax := by bv_omega
    rw [if_neg hm, settle_of_scan (by rfl) (by exact hleft)]
    rfl

/- ## The failures of a decode -/

/-- What an answer leaves alone when it ends the decode with a failure, and what it makes of SYNC_DISC (R143, R146). -/
structure FailsFrom (v w : State) : Prop where
  sess : w.sess = v.sess
  op : w.op = v.op
  rxQ : w.rxQ = v.rxQ
  mem : w.mem = v.mem
  rxLenf : w.rxLenf = v.rxLenf
  rxCount : w.rxCount = v.rxCount
  scanning : v.dec = .sync → w.syncDisc = w.syncCnt
  pastScan : v.dec ≠ .sync → w.syncDisc = v.syncDisc

theorem failsFrom_of_endsFrom {v w : State} {e : RxEvent} {o : ResultReg} (h : EndsFrom v e w o) :
    FailsFrom v w := by
  cases h with
  | timeout | fatal =>
    split
    · next hd => exact ⟨rfl, rfl, rfl, rfl, rfl, rfl, fun _ => rfl, fun hn => absurd hd hn⟩
    · next hd => exact ⟨rfl, rfl, rfl, rfl, rfl, rfl, fun hs => absurd hs hd, fun _ => rfl⟩
  | badLength b hd | badChecksum b hd | badTrailer b hd | frame b hd =>
    exact ⟨rfl, rfl, rfl, rfl, rfl, rfl, fun hs => by simp [hd] at hs, fun _ => rfl⟩

/-- An answer that ends the decode ends it with the outcome that `decodeFailure` names, if it names one. -/
theorem endsFrom_outcome {v w : State} {e : RxEvent} {o o' : ResultReg} (h : EndsFrom v e w o')
    (ho : decodeFailure e v = some o) : o' = o := by
  cases h with
  | timeout | fatal => exact Option.some.inj ho
  | badLength b hd hlen => simpa [decodeFailure, hd, hlen] using ho
  | badChecksum b hd hb => simpa [decodeFailure, hd, hb] using ho
  | badTrailer b hd hb =>
    simp only [decodeFailure, hd, if_neg hb] at ho
    exact Option.some.inj ho
  | frame b hd h0 hb => simp [decodeFailure, hd, h0, hb] at ho

/-- An answer that fails the decode ends it at once, or is the byte that uses up the scan's budget. -/
theorem rxStep_of_decodeFailure {v u : State} {e : RxEvent} {o : ResultReg} (h : RxStep v e u)
    (hi : v.dec ≠ .idle) (ho : decodeFailure e v = some o) :
    (∃ w, EndsFrom v e w o ∧ DecodeEnd o w u) ∨
    (∃ b, v.dec = .sync ∧ v.syncMax.toNat ≤ v.syncCnt.toNat + 1 ∧ o = ⟨.syncTimeout, false, 0⟩ ∧
      u = { v with syncCnt := v.syncCnt + 1, prev := b, prevValid := true }) := by
  cases h with
  | idle b hd => exact absurd hd hi
  | scan b hd hm =>
    simp only [decodeFailure, hd, hm, true_and] at ho
    split at ho
    · next hspent => exact .inr ⟨b, hd, hspent, (Option.some.inj ho).symm, rfl⟩
    · cases ho
  | marker b hd hm => simp [decodeFailure, hd, hm] at ho
  | lenHi b hd | lenLo b hd | payload b hd | trailer0 b hd => simp [decodeFailure, hd] at ho
  | idNoPayload b hd hlen => simp [decodeFailure, hd, hlen] at ho
  | idPayload b hd hlen => simp only [decodeFailure, hd, if_neg hlen] at ho; cases ho
  | checksum b hd hb => simp [decodeFailure, hd, hb] at ho
  | ends he hend =>
    have hout := endsFrom_outcome he ho
    subst hout
    exact .inl ⟨_, he, hend⟩

/-- Inside RECV, a decode's end is the end of the operation. -/
theorem decodeEnd_of_recv {o : ResultReg} {w u : State} (h : DecodeEnd o w u)
    (hop : w.op = .recv) : u = recvEnded o w := by
  cases h with
  | recv => rfl
  | fatal hn | nack hn | ack hn | goesOn hn => exact absurd hop hn

/-- Inside RECV, an answer that fails the decode ends the operation with that outcome, from a state in which nothing else has changed. -/
theorem settle_of_decodeFailure_recv {v u : State} {e : RxEvent} {o : ResultReg}
    (h : RxStep v e u) (hi : v.dec ≠ .idle) (hop : v.op = .recv)
    (hbudget : v.dec = .sync → v.syncCnt < v.syncMax) (ho : decodeFailure e v = some o) :
    ∃ w, FailsFrom v w ∧ settle u = recvEnded o w := by
  rcases rxStep_of_decodeFailure h hi ho with ⟨w, he, hend⟩ | ⟨b, hd, hspent, rfl, rfl⟩
  · have hw := failsFrom_of_endsFrom he
    refine ⟨w, hw, ?_⟩
    rw [decodeEnd_of_recv hend (hw.op.trans hop), settle_recvEnded]
  · have hc : v.syncMax ≤ v.syncCnt + 1 := by
      rw [BitVec.le_def, toNat_succ_of_lt (hbudget hd)]; exact hspent
    refine ⟨{ v with
      syncCnt := v.syncCnt + 1, prev := b, prevValid := true, syncDisc := v.syncCnt + 1 },
      ⟨rfl, rfl, rfl, rfl, rfl, rfl, fun _ => rfl, fun hn => absurd hd hn⟩, ?_⟩
    rw [settle_of_budgetSpent_recv (by exact hd) (by exact hop) (by exact hc)]

/-- Settles O40: the failing answer ends the decode, at once or in Settle's budget check, and the end of a RECV's decode is the end of the RECV. -/
theorem failedDecodeEndsRecv : Obligations.FailedDecodeEndsRecv := by
  intro s e rest es o h hi hop hbudget ho
  obtain ⟨u, hu, hrun⟩ := runBlock_blockRx e (rxTaken s rest es)
  obtain ⟨w, hw, hsettle⟩ := settle_of_decodeFailure_recv hu hi hop hbudget ho
  rw [step_rx h, hrun, hsettle]
  exact ⟨_, rfl, rfl, rfl, rfl, rfl, hw.sess, rfl, hw.rxQ, hw.mem, hw.rxLenf, hw.rxCount,
    hw.scanning, hw.pastScan⟩

end Sys2Proof.Machine

/-! PROOFS. A RECV over a stream of bytes, from its command to its end: the scan, the header, the payload and the last byte (R142 to R159, R170, R171). -/

namespace Sys2Proof.Machine

/- ## Streams of bytes -/

/-- `s` with RXCH asked for bytes and about to answer with the bytes `z` in its next turns; `es` and `as` are what follows them. -/
def fed (z : List Byte) (es : List RxEvent) (as : List Agent) (s : State) : State :=
  { s with
    sched := List.replicate z.length .rxch ++ as
    rxQ := z.map .byte ++ es
    rxpend := true }

/-- The first byte of the stream is RXCH's next answer. -/
theorem rxAnswers_fed (b : Byte) (z : List Byte) (es : List RxEvent) (as : List Agent) (s : State) :
    rxAnswers (fed (b :: z) es as s) (.byte b) (List.replicate z.length .rxch ++ as)
      (z.map .byte ++ es) :=
  ⟨rfl, rfl, rfl⟩

/-- The decode takes the bytes `z`, one a step, from `s` to `t`, whatever comes after them. -/
def Consumes (z : List Byte) (s t : State) : Prop :=
  ∀ w es as, Host.Core.run Sys2Proof.core z.length (fed (z ++ w) es as s) = .next (fed w es as t)

theorem Consumes.nil (s : State) : Consumes [] s s := fun _ _ _ => rfl

theorem Consumes.one {b : Byte} {s t : State}
    (h : ∀ w es as, step (fed (b :: w) es as s) = .next (fed w es as t)) : Consumes [b] s t :=
  fun w es as => run_succ (h w es as)

theorem Consumes.append {y z : List Byte} {s t u : State} (h : Consumes y s t)
    (k : Consumes z t u) : Consumes (y ++ z) s u := by
  intro w es as
  rw [List.length_append, List.append_assoc]
  exact (coreRun_add (M := Sys2Proof.core) (h (z ++ w) es as)).trans (k w es as)

theorem Consumes.cons {b : Byte} {z : List Byte} {s t u : State} (h : Consumes [b] s t)
    (k : Consumes z t u) : Consumes (b :: z) s u :=
  h.append k

/- ## The scan -/

/-- The byte of this scan that the next one may complete a marker with, if there is one (R144). -/
def scanTail (s : State) : List Byte := if s.prevValid then [s.prev] else []

/-- What the scan of `z` leaves where `z` completes no marker (R144). -/
def scanned (z : List Byte) (s : State) : State :=
  { s with
    syncCnt := s.syncCnt + BitVec.ofNat 32 z.length
    prev := z.getLastD s.prev
    prevValid := !z.isEmpty || s.prevValid }

theorem scanned_nil (s : State) : scanned [] s = s := by
  simp [scanned]

theorem scanned_cons (b : Byte) (z : List Byte) (s : State) :
    scanned z (scanned [b] s) = scanned (b :: z) s := by
  have hcnt : s.syncCnt + BitVec.ofNat 32 1 + BitVec.ofNat 32 z.length =
      s.syncCnt + BitVec.ofNat 32 (z.length + 1) := by
    rw [BitVec.add_assoc, ← BitVec.ofNat_add, Nat.add_comm]
  simp [scanned, hcnt, List.getLastD_cons, List.getLastD_nil, -List.getLastD_eq_getLast?]

theorem noMarker_cons {b : Byte} {z : List Byte} (h : noMarker (b :: z) = true) :
    noMarker z = true := by
  cases z with
  | nil => rfl
  | cons c z => exact (Bool.and_eq_true_iff.1 h).2

theorem noMarker_left {y z : List Byte} (h : noMarker (y ++ z) = true) : noMarker y = true := by
  induction y with
  | nil => rfl
  | cons a y ih =>
    cases y with
    | nil => rfl
    | cons b y =>
      obtain ⟨hab, hrest⟩ := Bool.and_eq_true_iff.1 h
      exact Bool.and_eq_true_iff.2 ⟨hab, ih hrest⟩

/-- The marker's first byte completes no marker. -/
theorem noMarker_sync1 {z : List Byte} (h : noMarker z = true) : noMarker (z ++ [sync1]) = true := by
  induction z with
  | nil => rfl
  | cons a z ih =>
    cases z with
    | nil => simp [noMarker, sync1, sync2]
    | cons b z =>
      obtain ⟨hab, hrest⟩ := Bool.and_eq_true_iff.1 h
      exact Bool.and_eq_true_iff.2 ⟨hab, ih hrest⟩

/-- In a stream without a marker the next byte does not complete one, and the rest follows it without one. -/
theorem not_markerMatch_of_noMarker {s : State} {b : Byte} {z : List Byte}
    (h : noMarker (scanTail s ++ b :: z) = true) :
    ¬ markerMatch s b = true ∧ noMarker (b :: z) = true := by
  cases hv : s.prevValid with
  | false =>
    rw [scanTail, hv] at h
    exact ⟨by simp [markerMatch, hv], h⟩
  | true =>
    rw [scanTail, hv] at h
    obtain ⟨hpair, hrest⟩ := Bool.and_eq_true_iff.1 h
    exact ⟨by simpa [markerMatch, hv, imp_iff_not_or] using hpair, hrest⟩

/-- The byte after a scan of `z` completes no marker if none stands in the stream. -/
theorem not_markerMatch_scanned {s : State} {b : Byte} {z : List Byte}
    (h : noMarker (scanTail s ++ (z ++ [b])) = true) : ¬ markerMatch (scanned z s) b = true := by
  induction z generalizing s with
  | nil => rw [scanned_nil]; exact (not_markerMatch_of_noMarker h).1
  | cons a z ih =>
    rw [← scanned_cons]
    exact ih (s := scanned [a] s) (not_markerMatch_of_noMarker h).2

/-- One byte of a scan with budget left after it (R143, R144). -/
theorem consumes_scan_one {s : State} {b : Byte} (hd : s.dec = .sync)
    (hm : ¬ markerMatch s b = true) (hlt : s.syncCnt.toNat + 1 < s.syncMax.toNat) :
    Consumes [b] s (scanned [b] s) := by
  refine .one fun w es as => ?_
  have hleft : s.syncCnt + 1 < s.syncMax := by bv_omega
  have hdec : (fed w es as (scanned [b] s)).dec = .sync := hd
  rw [step_scan (rxAnswers_fed b w es as s) hd hm]
  exact congrArg _ (settle_of_waiting (t := fed w es as (scanned [b] s)) rfl
    (by rw [hdec]; exact Phase.noConfusion) (settleStep_of_scan hdec hleft))

/-- The scan goes through a stream without a marker while its budget lasts (R143, R144). -/
theorem consumes_scan {s : State} {z : List Byte} (hd : s.dec = .sync)
    (hz : noMarker (scanTail s ++ z) = true)
    (hlt : s.syncCnt.toNat + z.length < s.syncMax.toNat) : Consumes z s (scanned z s) := by
  induction z generalizing s with
  | nil => rw [scanned_nil]; exact .nil s
  | cons b z ih =>
    obtain ⟨hm, hrest⟩ := not_markerMatch_of_noMarker hz
    rw [List.length_cons] at hlt
    have hcnt : (s.syncCnt + 1).toNat + z.length < s.syncMax.toNat := by bv_omega
    have htail := ih (s := scanned [b] s) hd hrest hcnt
    rw [scanned_cons] at htail
    exact (consumes_scan_one hd hm (by omega)).cons htail

/-- A RECV that has just started: its scan has seen no byte (R142, R170). -/
structure FreshRecv (v : State) : Prop where
  dec : v.dec = .sync
  op : v.op = .recv
  syncCnt : v.syncCnt = 0
  prevValid : v.prevValid = false
  rxCount : v.rxCount = 0

theorem FreshRecv.scanTail {v : State} (h : FreshRecv v) : scanTail v = [] := by
  rw [Machine.scanTail, h.prevValid]; rfl

/-- What a scan leaves that finds the marker behind the noise `z` (R144). -/
def markerFound (z : List Byte) (v : State) : State :=
  { v with
    syncCnt := BitVec.ofNat 32 (z.length + 1) + 1
    prev := sync2
    prevValid := true
    syncDisc := BitVec.ofNat 32 (z.length + 1) - 1
    dec := .lenHi }

/-- A RECV finds the marker behind noise that its budget covers (R144, R171). -/
theorem consumes_marker {v : State} {z : List Byte} (h : FreshRecv v) (hz : noMarker z = true)
    (hlt : z.length + 2 ≤ v.syncMax.toNat) :
    Consumes (z ++ [sync1, sync2]) v (markerFound z v) := by
  have hlen : (z ++ [sync1]).length = z.length + 1 := by simp
  have hscan : Consumes (z ++ [sync1]) v (scanned (z ++ [sync1]) v) := by
    refine consumes_scan h.dec ?_ ?_
    · rw [h.scanTail]; exact noMarker_sync1 hz
    · rw [h.syncCnt, hlen]; simp; omega
  have hmatch : markerMatch (scanned (z ++ [sync1]) v) sync2 = true := by
    simp [markerMatch, scanned]
  have hcnt : (scanned (z ++ [sync1]) v).syncCnt = BitVec.ofNat 32 (z.length + 1) := by
    rw [scanned, hlen, h.syncCnt]; exact BitVec.zero_add _
  have hmarker : Consumes [sync2] (scanned (z ++ [sync1]) v) (markerFound z v) := by
    refine .one fun w es as => ?_
    rw [markerFound, ← hcnt]
    exact step_marker (rxAnswers_fed sync2 w es as _) h.dec hmatch
  have hall := hscan.append hmarker
  rwa [List.append_assoc] at hall

/-- Every byte of the noise is counted as discarded (R42). -/
theorem markerFound_syncDisc {v : State} {z : List Byte} (hlt : z.length + 2 ≤ v.syncMax.toNat) :
    (markerFound z v).syncDisc.toNat = z.length := by
  have hmax := v.syncMax.isLt
  have hdisc : (markerFound z v).syncDisc = BitVec.ofNat 32 (z.length + 1) - 1 := rfl
  rw [hdisc]
  bv_omega

/- ## The header and the payload -/

/-- The two bytes of a length put it together again (R66). -/
theorem ofBytes16_of_bytes (v : BitVec 16) (x : Byte) :
    ofBytes16 (hiByte (ofBytes16 (hiByte v) x)) (loByte v) = v := by
  have := x.isLt
  apply BitVec.eq_of_toNat_eq
  rw [ofBytes16_toNat, hiByte_toNat, ofBytes16_toNat, hiByte_toNat, loByte_toNat]
  omega

/-- The two length bytes give RX_LENF (R148, R149). -/
theorem consumes_length {s : State} (n : BitVec 16) (hd : s.dec = .lenHi) :
    Consumes [hiByte n, loByte n] s { s with rxLenf := n, dec := .msgId } := by
  have hhi : Consumes [hiByte n] s
      { s with rxLenf := ofBytes16 (hiByte n) (loByte s.rxLenf), dec := .lenLo } :=
    .one fun w es as => step_lenHi (rxAnswers_fed _ w es as s) hd
  have hlo : Consumes [loByte n]
      { s with rxLenf := ofBytes16 (hiByte n) (loByte s.rxLenf), dec := .lenLo }
      { s with rxLenf := n, dec := .msgId } := by
    refine .one fun w es as => ?_
    rw [step_lenLo (rxAnswers_fed _ w es as _) rfl]
    simp only [fed, ofBytes16_of_bytes]
  exact hhi.cons hlo

/-- What the payload bytes `p` leave when they are the last ones (R153). -/
def stored (p : List Byte) (s : State) : State :=
  { s with
    mem := memWriteBytes s.mem (0x20000 + s.rxCount.toNat) p
    ckCalc := xorFold s.ckCalc p
    rxCount := s.rxCount + BitVec.ofNat 16 p.length
    dec := .checksum }

theorem stored_nil {s : State} (hd : s.dec = .checksum) : stored [] s = s := by
  simp [stored, memWriteBytes, xorFold, ← hd]

theorem stored_cons {s : State} (b : Byte) (p : List Byte) (d : Phase)
    (hlt : s.rxCount.toNat + 1 < 2 ^ 16) :
    stored p { stored [b] s with dec := d } = stored (b :: p) s := by
  have hcount : s.rxCount + BitVec.ofNat 16 1 + BitVec.ofNat 16 p.length =
      s.rxCount + BitVec.ofNat 16 (p.length + 1) := by
    rw [BitVec.add_assoc, ← BitVec.ofNat_add, Nat.add_comm]
  have hsucc : (s.rxCount + BitVec.ofNat 16 1).toNat = s.rxCount.toNat + 1 := by bv_omega
  simp [stored, memWriteBytes, hcount, hsucc, xorFold, Nat.add_assoc]

/-- The payload bytes that RX_LENF announces are stored, counted and folded, and end the phase (R153). -/
theorem consumes_payload {s : State} (p : List Byte)
    (hd : s.dec = if p = [] then .checksum else .payload)
    (hlen : s.rxCount.toNat + 1 + p.length = s.rxLenf.toNat) : Consumes p s (stored p s) := by
  induction p generalizing s with
  | nil => rw [stored_nil hd]; exact .nil s
  | cons b p ih =>
    have hmax := s.rxLenf.isLt
    rw [List.length_cons] at hlen
    rw [if_neg (List.cons_ne_nil b p)] at hd
    have hlast : s.rxCount.toNat + 2 = s.rxLenf.toNat ↔ p = [] := by
      rw [← List.length_eq_zero_iff]; omega
    have hfirst : Consumes [b] s
        { stored [b] s with dec := if p = [] then .checksum else .payload } := by
      refine .one fun w es as => ?_
      have hopen : s.rxCount.toNat + 1 < s.rxLenf.toNat := by omega
      rw [step_payload (rxAnswers_fed b w es as s) hd hopen]
      simp only [fed, stored, hlast]
      rfl
    have hcount : (s.rxCount + 1).toNat + 1 + p.length = s.rxLenf.toNat := by bv_omega
    have hrest := ih (s := { stored [b] s with dec := if p = [] then .checksum else .payload })
      rfl hcount
    rw [stored_cons b p _ (by omega)] at hrest
    exact hfirst.cons hrest

/-- The id byte and the payload of a frame (R151, R153). -/
theorem consumes_idPayload {s : State} (id : Byte) (p : List Byte) (hd : s.dec = .msgId)
    (hcount : s.rxCount = 0) (hlen : s.rxLenf.toNat = p.length + 1) :
    Consumes (id :: p) s (stored p { s with rxId := id, ckCalc := id }) := by
  have hid : Consumes [id] s { s with
      rxId := id, ckCalc := id, dec := if s.rxLenf.toNat = 1 then .checksum else .payload } :=
    .one fun w es as => step_msgId (rxAnswers_fed id w es as s) hd (by simp only [fed]; omega)
  have hempty : s.rxLenf.toNat = 1 ↔ p = [] := by
    rw [← List.length_eq_zero_iff]; omega
  have hall : s.rxCount.toNat + 1 + p.length = s.rxLenf.toNat := by
    rw [hcount, hlen]; simp; omega
  have hpayload := consumes_payload p (s := { s with
    rxId := id, ckCalc := id, dec := if s.rxLenf.toNat = 1 then .checksum else .payload })
    (by simp only [hempty]) hall
  exact hid.cons hpayload

/-- The frame up to its checksum: the marker, the length, the id and the payload (R96). -/
def frameHead (id : Byte) (p : List Byte) : List Byte :=
  [sync1, sync2, hiByte (payloadLen p.length), loByte (payloadLen p.length), id] ++ p

theorem encodeFrame_eq_head (id : Byte) (p : List Byte) :
    encodeFrame id p = frameHead id p ++ [xorFold id p, trl1Byte, trl2Byte] := rfl

theorem frameHead_length (id : Byte) (p : List Byte) : (frameHead id p).length = p.length + 5 := by
  simp [frameHead]

theorem encodeFrame_take (id : Byte) (p : List Byte) :
    (encodeFrame id p).take (p.length + 5) = frameHead id p := by
  rw [encodeFrame_eq_head, ← frameHead_length id p, List.take_left]

/-- What a RECV holds when it has read a frame up to its checksum, behind the noise `z`. -/
def headRead (z : List Byte) (id : Byte) (p : List Byte) (v : State) : State :=
  stored p { markerFound z v with rxLenf := payloadLen p.length, rxId := id, ckCalc := id }

/-- A RECV reads a frame up to its checksum, behind noise that its budget covers (R144 to R153). -/
theorem consumes_head {v : State} {z : List Byte} (id : Byte) {p : List Byte} (h : FreshRecv v)
    (hp : p.length ≤ 65534) (hz : noMarker z = true) (hlt : z.length + 2 ≤ v.syncMax.toNat) :
    Consumes (z ++ frameHead id p) v (headRead z id p v) := by
  have hlength := consumes_length (payloadLen p.length) (s := markerFound z v) rfl
  have hpayload := consumes_idPayload id p
    (s := { markerFound z v with rxLenf := payloadLen p.length, dec := .msgId }) rfl h.rxCount
    (payloadLen_toNat hp)
  have hsplit : z ++ frameHead id p = z ++ [sync1, sync2] ++
      [hiByte (payloadLen p.length), loByte (payloadLen p.length)] ++ id :: p := by
    simp [frameHead]
  rw [hsplit]
  exact ((consumes_marker h hz hlt).append hlength).append hpayload

theorem headRead_rxCount {v : State} (z : List Byte) (id : Byte) {p : List Byte}
    (h : FreshRecv v) (hp : p.length ≤ 65534) : (headRead z id p v).rxCount.toNat = p.length := by
  have hcount : (headRead z id p v).rxCount = v.rxCount + BitVec.ofNat 16 p.length := rfl
  rw [hcount, h.rxCount]
  simp; omega

/-- The payload stands in RXBUF (R153). -/
theorem headRead_payload {v : State} (z : List Byte) (id : Byte) (p : List Byte)
    (h : FreshRecv v) : memReadBytes (headRead z id p v).mem 0x20000 p.length = some p := by
  have hmem : (headRead z id p v).mem = memWriteBytes v.mem (0x20000 + v.rxCount.toNat) p := rfl
  rw [hmem, h.rxCount]
  exact memReadBytes_memWriteBytes p v.mem 0x20000

/-- A checksum byte that agrees (R155). -/
theorem consumes_checksum {s : State} {ck : Byte} (hd : s.dec = .checksum) (hck : ck = s.ckCalc) :
    Consumes [ck] s { s with ckRcvd := ck, dec := .trailer0 } :=
  .one fun w es as => step_checksum (rxAnswers_fed ck w es as s) hd hck

/-- The first trailer byte, whatever it is (R156). -/
theorem consumes_trailer0 {s : State} (b : Byte) (hd : s.dec = .trailer0) :
    Consumes [b] s { s with trl0 := b, dec := .trailer1 } :=
  .one fun w es as => step_trailer0 (rxAnswers_fed b w es as s) hd

/-- What a RECV holds when only the last trailer byte of its frame is to come. -/
def frameRead (z : List Byte) (id : Byte) (p : List Byte) (t0 : Byte) (v : State) : State :=
  { headRead z id p v with ckRcvd := xorFold id p, trl0 := t0, dec := .trailer1 }

/-- A RECV reads a frame up to its last trailer byte, behind noise that its budget covers. -/
theorem consumes_frame {v : State} {z : List Byte} (id : Byte) {p : List Byte} (t0 : Byte)
    (h : FreshRecv v) (hp : p.length ≤ 65534) (hz : noMarker z = true)
    (hlt : z.length + 2 ≤ v.syncMax.toNat) :
    Consumes (z ++ frameHead id p ++ [xorFold id p, t0]) v (frameRead z id p t0 v) := by
  have hck := consumes_checksum (s := headRead z id p v) (ck := xorFold id p) rfl rfl
  have htr := consumes_trailer0 (s := { headRead z id p v with
    ckRcvd := xorFold id p, dec := .trailer0 }) t0 rfl
  exact (consumes_head id h hp hz hlt).append (hck.cons htr)

/- ## From the command to the end -/

/-- The command step of a RECV, up to Settle. -/
theorem step_recv {s : State} {hs : List HostReq} {rest : List Agent} (hb : s.busy = false)
    (hq : s.hostQ = .cmd 2 :: hs) (hsched : s.sched = .host :: rest) :
    step s = .next (settle (decodeStart (commandStart .recv { s with sched := rest, hostQ := hs }))) := by
  have hdecode : decodeHost (.cmd 2) = .recv := by decide
  rw [step_host hsched hq, hdecode, exec_recv_of_idle (by exact hb)]
  rfl

/-- With a budget, the command step of a RECV leaves a fresh scan that the stream then feeds. -/
theorem recvThenBytes_step {z : List Byte} {s : State} (h : recvThenBytes z s)
    (hm : 0 < s.syncMax.toNat) : ∃ es as v, step s = .next (fed z es as v) ∧
      s.rxQ = z.map .byte ++ es ∧ FreshRecv v ∧ v.syncMax = s.syncMax := by
  obtain ⟨hb, -, ⟨hs, hq⟩, ⟨es, hrx⟩, as, hsched⟩ := h
  have hleft : (0 : BitVec 32) < s.syncMax := by bv_omega
  refine ⟨es, as, decodeStart (commandStart .recv { s with hostQ := hs }), ?_, hrx,
    ⟨rfl, rfl, rfl, rfl, rfl⟩, rfl⟩
  rw [step_recv hb hq hsched, settle_of_scan (by rfl) (by exact hleft), fed, ← hrx]
  rfl

/-- A RECV whose stream ends in `b`: its command, the bytes before `b`, and the step of `b`. -/
theorem recvThenBytes_run {z : List Byte} {b : Byte} {s : State} (h : recvThenBytes (z ++ [b]) s)
    (hm : 0 < s.syncMax.toNat) : ∃ es as v, s.rxQ = (z ++ [b]).map .byte ++ es ∧ FreshRecv v ∧
      v.syncMax = s.syncMax ∧ ∀ t u, Consumes z v t → step (fed [b] es as t) = .next u →
        Host.Core.run Sys2Proof.core (1 + (z ++ [b]).length) s = .next u := by
  obtain ⟨es, as, v, hstep, hrx, hv, hmax⟩ := recvThenBytes_step h hm
  refine ⟨es, as, v, hrx, hv, hmax, fun t u hz hu => ?_⟩
  rw [Nat.add_comm, run_succ hstep, List.length_append]
  exact (coreRun_add (M := Sys2Proof.core) (hz [b] es as)).trans (run_succ hu)

/-- The last trailer byte of an exact trailer ends a RECV with OK (R158). -/
theorem step_fed_trailer {s : State} (es : List RxEvent) (as : List Agent) (hd : s.dec = .trailer1)
    (h0 : s.trl0 = 0x0D) (hop : s.op = .recv) : step (fed [trl2Byte] es as s) =
      .next (recvEnded ⟨.ok, false, 0⟩ (fed [] es as { s with trl1 := trl2Byte })) :=
  step_trailer_recv (rxAnswers_fed trl2Byte [] es as s) hd h0 rfl hop

/-- The last byte of a wrong trailer ends a RECV with INVALID_TRAILER (R158). -/
theorem step_fed_badTrailer {s : State} {b : Byte} (es : List RxEvent) (as : List Agent)
    (hd : s.dec = .trailer1) (hb : ¬ (s.trl0 = 0x0D ∧ b = 0x0A)) (hop : s.op = .recv) :
    step (fed [b] es as s) =
      .next (recvEnded ⟨.invalidTrailer, false, 0⟩ (fed [] es as { s with trl1 := b })) := by
  rw [step_badTrailer (rxAnswers_fed b [] es as s) hd hb, settle_endDecode_of_recv (by exact hop)]
  rfl

/-- A wrong checksum byte ends a RECV with CHECKSUM_MISMATCH (R155). -/
theorem step_fed_badChecksum {s : State} {b : Byte} (es : List RxEvent) (as : List Agent)
    (hd : s.dec = .checksum) (hb : b ≠ s.ckCalc) (hop : s.op = .recv) :
    step (fed [b] es as s) =
      .next (recvEnded ⟨.checksumMismatch, false, 0⟩ (fed [] es as { s with ckRcvd := b })) := by
  rw [step_badChecksum (rxAnswers_fed b [] es as s) hd hb, settle_endDecode_of_recv (by exact hop)]
  rfl

/-- The byte that uses up the scan's budget ends a RECV with SYNC_TIMEOUT (R143). -/
theorem step_fed_lastScan {s : State} {b : Byte} (es : List RxEvent) (as : List Agent)
    (hd : s.dec = .sync) (hm : ¬ markerMatch s b = true) (hop : s.op = .recv)
    (hc : s.syncMax = s.syncCnt + 1) : step (fed [b] es as s) =
      .next (recvEnded ⟨.syncTimeout, false, 0⟩
        (fed [] es as { scanned [b] s with syncDisc := s.syncCnt + 1 })) := by
  rw [step_scan (rxAnswers_fed b [] es as s) hd hm,
    settle_of_budgetSpent_recv (by exact hd) (by exact hop) (by exact BitVec.le_of_eq hc)]
  rfl

/-- Settles O55: the scan passes the noise, the phases read the frame, and its exact trailer ends the RECV. -/
theorem recvDecodesAFrameBehindNoise : Obligations.RecvDecodesAFrameBehindNoise := by
  intro s id p z hp hz hlt hrecv
  have hsplit : z ++ encodeFrame id p =
      z ++ frameHead id p ++ [xorFold id p, trl1Byte] ++ [trl2Byte] := by
    simp [encodeFrame_eq_head]
  rw [hsplit] at hrecv ⊢
  obtain ⟨es, as, v, hrx, hv, hmax, hrun⟩ := recvThenBytes_run hrecv (by omega)
  rw [← hmax] at hlt
  have hframe := consumes_frame id trl1Byte hv hp hz hlt
  exact ⟨_, hrun _ _ hframe (step_fed_trailer es as rfl rfl hv.op), rfl, rfl, rfl, rfl,
    headRead_rxCount z id hv hp, headRead_payload z id p hv, markerFound_syncDisc hlt, hrx⟩

/-- Settles O56: all bytes but the last leave budget, and the last one uses it up; with no budget the command step ends the RECV. -/
theorem recvGivesUpWithoutAMarker : Obligations.RecvGivesUpWithoutAMarker := by
  intro s z hz hlen hrecv
  rcases List.eq_nil_or_concat' z with rfl | ⟨y, b, rfl⟩
  · obtain ⟨hb, -, ⟨hs, hq⟩, -, as, hsched⟩ := hrecv
    have hzero : s.syncMax = 0 := BitVec.eq_of_toNat_eq hlen.symm
    have hstep := step_recv hb hq hsched
    rw [settle_of_budgetSpent_recv (by rfl) (by rfl) (by exact BitVec.le_of_eq hzero)] at hstep
    exact ⟨_, run_succ hstep, rfl, rfl, hzero.symm, hzero.symm, rfl⟩
  · have hpos : 0 < s.syncMax.toNat := by rw [← hlen]; simp
    obtain ⟨es, as, v, hrx, hv, hmax, hrun⟩ := recvThenBytes_run hrecv hpos
    rw [← hmax, List.length_append, List.length_singleton] at hlen
    have hall : noMarker (scanTail v ++ (y ++ [b])) = true := by rw [hv.scanTail]; exact hz
    have hscan : Consumes y v (scanned y v) := by
      refine consumes_scan hv.dec ?_ ?_
      · rw [hv.scanTail]; exact noMarker_left hz
      · rw [hv.syncCnt]; simp; omega
    have hcnt : v.syncMax = (scanned y v).syncCnt + 1 := by
      have hy : (scanned y v).syncCnt = v.syncCnt + BitVec.ofNat 32 y.length := rfl
      rw [hy, hv.syncCnt]
      bv_omega
    rw [← hmax, hcnt]
    exact ⟨_, hrun _ _ hscan (step_fed_lastScan es as hv.dec (not_markerMatch_scanned hall) hv.op hcnt),
      rfl, rfl, rfl, rfl, hrx⟩

/-- Settles O57: the frame is read up to the byte that is judged, and that byte ends the RECV with its failure. -/
theorem recvRejectsACorruptedFrame : Obligations.RecvRejectsACorruptedFrame := by
  intro s id ck t0 t1 p hp hm
  dsimp only
  rw [encodeFrame_take]
  refine ⟨fun hck hrecv => ?_, fun hck htr hrecv => ?_⟩
  · obtain ⟨es, as, v, hrx, hv, hmax, hrun⟩ := recvThenBytes_run hrecv (by omega)
    have hhead := consumes_head (z := []) id hv hp rfl (by rw [hmax]; exact hm)
    have hsteps : 1 + (frameHead id p ++ [ck]).length = p.length + 7 := by
      simp [frameHead_length]; omega
    rw [hsteps] at hrun
    exact ⟨_, hrun _ _ hhead (step_fed_badChecksum es as rfl hck hv.op), rfl, rfl, rfl, rfl, hrx⟩
  · have hsplit : frameHead id p ++ [ck, t0, t1] =
        frameHead id p ++ [xorFold id p, t0] ++ [t1] := by simp [hck]
    rw [hsplit] at hrecv
    obtain ⟨es, as, v, -, hv, hmax, hrun⟩ := recvThenBytes_run hrecv (by omega)
    have hframe := consumes_frame (z := []) id t0 hv hp rfl (by rw [hmax]; exact hm)
    have hsteps : 1 + (frameHead id p ++ [xorFold id p, t0] ++ [t1]).length = p.length + 9 := by
      simp [frameHead_length]; omega
    rw [hsteps] at hrun
    exact ⟨_, hrun _ _ hframe (step_fed_badTrailer es as rfl htr hv.op), rfl, rfl, rfl, rfl⟩

end Sys2Proof.Machine

/-! PROOFS. One step of a SEND: its command, an answer of TXCH, a reply's class, and a decode that fails (R141, R146, R180, R181, R184 to R190). -/

namespace Sys2Proof.Machine

/- ## The command and the write error -/

/-- A session in SENDING waits for TXCH: Settle only finds no decode running (R9, R70). -/
theorem settle_of_sending {s : State} (hs : s.sess = .sending) (hd : s.dec = .idle) :
    settle s = { s with rxpend := false } := by
  have hrest : settleStep s = none := by
    rw [settleStep_eq_none, hs, hd]
    simp
  rw [settle_of_rest hrest, hd]
  rfl

/-- Settles O23: the frame is built after the command start, and with it presented Settle has nothing to do. -/
theorem sendCompletes : Obligations.SendCompletes := by
  intro s p hb hd hlen hp
  have hl : s.txLen ≠ 65535 := mt (txLen_eq_max_iff s).1 hlen
  rw [exec_send_of_idle hb, startSend_written hl hp, settle_of_sending (by rfl) (by exact hd)]
  rfl

/-- Settles O43: the session has ended when Settle runs, so only the byte request is cleared. -/
theorem writeErrorFailsTheSession : Obligations.WriteErrorFailsTheSession := by
  intro s rest as h hd
  rw [step_tx h, blockTx, settle_of_idle (by rfl) (by exact hd)]
  rfl

/- ## The reply classes -/

/-- Settles O27: both actions end the operation, so Settle only clears the byte request. -/
theorem matchingRepliesEndTheSession : Obligations.MatchingRepliesEndTheSession := by
  intro s hd
  constructor
  · rw [exec, execNackMatch, settle_of_idle (by rfl) (by exact hd)]
    rfl
  · rw [exec, execAckMatch, settle_of_idle (by rfl) (by exact hd)]
    rfl

/-- Settles O28: the class does nothing of its own, and Settle takes the session on as ACK_MAX and SYNC_MAX allow. -/
theorem unrelatedReplyConsumesAnAttempt : Obligations.UnrelatedReplyConsumesAnAttempt := by
  intro id m s hb hop hs hd
  have hexec : exec (.unrelated id m) s = .next (settle s) := rfl
  dsimp only
  rw [hexec]
  by_cases ha : s.ackMax ≤ s.attempts
  · rw [if_pos ha, settle_of_exhausted hb hs hd ha]
    rfl
  · have hleft : s.attempts < s.ackMax := BitVec.not_le.1 ha
    rw [if_neg ha]
    by_cases hm : s.syncMax = 0
    · have hsend : s.op ≠ .recv := by rw [hop]; exact OpCode.noConfusion
      rw [if_pos hm, settle_vainSession hb hs hd hsend hm hleft, hd]
      rfl
    · have hpos : 0 < s.syncMax.toNat := by bv_omega
      rw [if_neg hm, settle_of_attempt hb hs hd hleft hpos]
      rfl

/-- Inside SEND, a decode that ends OK hands its frame's class over (R141, R185, R187). -/
theorem runBlock_endDecode_ok {w : State} (hop : w.op ≠ .recv) :
    runBlock (endDecode .ok false 0 w) =
      exec (decodeReply (replyKey (ended ⟨.ok, false, 0⟩ w))) (ended ⟨.ok, false, 0⟩ w) := by
  rcases endDecode_cases .ok false 0 w with ⟨hrecv, -⟩ | ⟨-, hc, -⟩ | ⟨-, -, h⟩ | ⟨-, -, hne, -⟩
  · exact absurd hrecv hop
  · cases hc
  · rw [h]; rfl
  · exact absurd rfl hne

/-- Settles O31: the exact trailer ends the decode OK, and that end hands the class over. -/
theorem decodedReplyRunsItsClass : Obligations.DecodedReplyRunsItsClass := by
  intro s rest es h hd h0 hop
  have hok : (rxTaken s rest es).trl0 = trl1Byte ∧ (0x0A : Byte) = trl2Byte := ⟨h0, rfl⟩
  have hsend : s.op ≠ .recv := by rw [hop]; exact OpCode.noConfusion
  rw [step_byte h, phaseByte_of_trailer1 (v := rxTaken s rest es) _ hd, trailer1Byte, if_pos hok]
  exact runBlock_endDecode_ok (w := { rxTaken s rest es with trl1 := 0x0A }) hsend

/- ## A decode that fails inside SEND -/

/-- Inside SEND, a decode's end with a fatal channel error fails the session (R185). -/
theorem decodeEnd_of_fatal {p : BitVec 4} {w u : State}
    (h : DecodeEnd ⟨.channelError, true, p⟩ w u) (hop : w.op ≠ .recv) :
    u = finish .channelError true p { ended ⟨.channelError, true, p⟩ w with sess := .failed } := by
  cases h with
  | recv hrecv => exact absurd hrecv hop
  | fatal => rfl
  | nack _ hok | ack _ hok => cases hok
  | goesOn _ hnf => exact absurd ⟨rfl, rfl⟩ hnf

/-- An event that ends the decode leaves the attempt counter alone. -/
theorem endsFrom_attempts {v w : State} {e : RxEvent} {o : ResultReg} (h : EndsFrom v e w o) :
    w.attempts = v.attempts := by
  cases h with
  | timeout | fatal => split <;> rfl
  | _ => rfl

/-- What stands of a session when its decode ends (R141). -/
structure SameSession (v w : State) : Prop extends SameControl v w, SameOutside v w where
  attempts : w.attempts = v.attempts

theorem sameSession_of_endsFrom {v w : State} {e : RxEvent} {o : ResultReg}
    (h : EndsFrom v e w o) : SameSession v w :=
  { endsFrom_sameControl h, endsFrom_same h with attempts := endsFrom_attempts h }

/-- Settles O41: the error ends the decode, and that end ends the session, which Settle leaves alone. -/
theorem fatalErrorFailsTheSession : Obligations.FatalErrorFailsTheSession := by
  intro s rest es h _ hop
  obtain ⟨u, hu, hrun⟩ := runBlock_blockRx .fatal (rxTaken s rest es)
  rw [step_rx h, hrun]
  cases hu with
  | ends he hend =>
    have hw := sameSession_of_endsFrom he
    have hsend := hw.toSameControl.op.trans hop
    cases he with
    | fatal =>
      rw [decodeEnd_of_fatal hend (by rw [hsend]; exact OpCode.noConfusion),
        settle_of_idle (by rfl) (by rfl)]
      exact ⟨_, rfl, rfl, rfl, rfl, rfl, rfl, hw.attempts⟩

/-- A failure's outcome is not OK. -/
theorem decodeFailure_code {e : RxEvent} {v : State} {o : ResultReg}
    (h : decodeFailure e v = some o) : o.code ≠ .ok := by
  cases e with
  | timeout | fatal => cases h; exact Code.noConfusion
  | byte b =>
    simp only [decodeFailure] at h
    split at h
    · split_ifs at h; cases h; exact Code.noConfusion
    · split_ifs at h; cases h; exact Code.noConfusion
    · split_ifs at h; cases h; exact Code.noConfusion
    · split_ifs at h; cases h; exact Code.noConfusion
    · cases h

/-- Inside SEND, a decode's end that is neither fatal nor OK goes on (R186). -/
theorem decodeEnd_of_recoverable {o : ResultReg} {w u : State} (h : DecodeEnd o w u)
    (hop : w.op ≠ .recv) (hf : o.chFatal = false) (hok : o.code ≠ .ok) : u = ended o w := by
  cases h with
  | recv hrecv => exact absurd hrecv hop
  | fatal _ _ hfatal => rw [hf] at hfatal; cases hfatal
  | nack _ hc | ack _ hc => exact absurd hc hok
  | goesOn => rfl

/-- Inside SEND, an answer that fails the decode without a fatal error brings Settle between two attempts, at once or by the budget check (R143, R186). -/
theorem settle_of_decodeFailure_send {v u : State} {e : RxEvent} {o : ResultReg}
    (h : RxStep v e u) (hi : v.dec ≠ .idle) (hop : v.op ≠ .recv)
    (hbudget : v.dec = .sync → v.syncCnt < v.syncMax) (ho : decodeFailure e v = some o)
    (hf : o.chFatal = false) : ∃ w, SameSession v w ∧ settle u = settle (ended o w) := by
  rcases rxStep_of_decodeFailure h hi ho with ⟨w, he, hend⟩ | ⟨b, hd, hspent, rfl, rfl⟩
  · have hw := sameSession_of_endsFrom he
    refine ⟨w, hw, ?_⟩
    rw [decodeEnd_of_recoverable hend (by rwa [hw.toSameControl.op]) hf (decodeFailure_code ho)]
  · have hc : v.syncMax ≤ v.syncCnt + 1 := by
      rw [BitVec.le_def, toNat_succ_of_lt (hbudget hd)]; exact hspent
    refine ⟨{ v with
      syncCnt := v.syncCnt + 1, prev := b, prevValid := true, syncDisc := v.syncCnt + 1 }, ?_,
      settle_of_some (settleStep_of_budgetSpent (by exact hop) (by exact hd) (by exact hc))⟩
    exact { SameOutside.refl v with busy := rfl, sess := rfl, result := rfl, txpend := rfl, attempts := rfl }

/-- Settles O42: the failure brings Settle between two attempts, and the iteration control starts the next one or exhausts the session. -/
theorem recoverableFailureConsumesAnAttempt : Obligations.RecoverableFailureConsumesAnAttempt := by
  intro s e rest es o h hi hb hop hs hm hbudget ho hf
  obtain ⟨u, hu, hrun⟩ := runBlock_blockRx e (rxTaken s rest es)
  have hsend : s.op ≠ .recv := by rw [hop]; exact OpCode.noConfusion
  obtain ⟨w, hw, hsettle⟩ := settle_of_decodeFailure_send hu hi hsend hbudget ho hf
  have hbw : w.busy = true := hw.busy.trans hb
  have hsw : w.sess = .awaitingReply := hw.sess.trans hs
  have hack : w.ackMax = s.ackMax := hw.ackMax
  have hatt : w.attempts = s.attempts := hw.attempts
  rw [step_rx h, hrun, hsettle]
  by_cases hlt : s.attempts < s.ackMax
  · have hmw : 0 < w.syncMax.toNat := by rw [hw.syncMax]; exact hm
    have hltw : w.attempts < w.ackMax := by rwa [hatt, hack]
    rw [settle_of_attempt (s := ended o w) hbw hsw rfl hltw hmw]
    exact ⟨_, rfl, rfl, hw.rxQ, hw.mem,
      fun _ => ⟨hsw, hbw, rfl, rfl, rfl, congrArg (· + 1) hatt, hw.result⟩,
      fun hge => absurd hlt (BitVec.not_lt.2 hge)⟩
  · have hgew : w.ackMax ≤ w.attempts := by rw [hatt, hack]; exact BitVec.not_lt.1 hlt
    rw [settle_of_exhausted (s := ended o w) hbw hsw rfl hgew]
    exact ⟨_, rfl, rfl, hw.rxQ, hw.mem, fun hx => absurd hx hlt,
      fun _ => ⟨rfl, rfl, rfl, hatt, rfl⟩⟩

end Sys2Proof.Machine

/-! PROOFS. Whole-machine rules of the session: the transitions that a step can take, the attempt counter at the end of a SEND, and the one write to the channel (R70, R183, R184, R191, R193). -/

namespace Sys2Proof.Machine

/- ## The session in Settle -/

/-- A decode's end that is neither fatal nor OK keeps the session state (R186). -/
theorem decodeEnd_sess_of_recoverable {o : ResultReg} {w u : State} (h : DecodeEnd o w u)
    (hf : o.chFatal = false) (hok : o.code ≠ .ok) : u.sess = w.sess := by
  by_cases hop : w.op = .recv
  · rw [decodeEnd_of_recv h hop]; rfl
  · rw [decodeEnd_of_recoverable h hop hf hok]; rfl

theorem syncTimeoutAct_sess (s : State) : (syncTimeoutAct s).sess = s.sess :=
  (decodeEnd_sess_of_recoverable (syncTimeoutAct_decodeEnd s) rfl nofun :)

theorem syncTimeoutAct_attempts (s : State) : (syncTimeoutAct s).attempts = s.attempts :=
  endDecode_attempts ..

/-- Settle takes a session nowhere but from AWAITING_REPLY to EXHAUSTED (R184). -/
theorem settle_sess (s : State) : (settle s).sess = s.sess ∨
    s.sess = .awaitingReply ∧ (settle s).sess = .exhausted := by
  refine settle_induct (fun u => u.sess = s.sess ∨ s.sess = .awaitingReply ∧ u.sess = .exhausted)
    (fun u v hu hv => ?_) (fun _ _ hu => hu) (.inl rfl)
  rcases settleStep_cases hv with ⟨-, -, rfl⟩ | ⟨-, hs, -, -, rfl⟩ | ⟨-, hs, -, -, rfl⟩
  · rw [syncTimeoutAct_sess]; exact hu
  · rw [hs] at hu
    exact .inr ⟨hu.elim Eq.symm (fun h => nomatch h.2), rfl⟩
  · exact hu

theorem settle_sess_of_not_waiting {s : State} (h : s.sess ≠ .awaitingReply) :
    (settle s).sess = s.sess :=
  (settle_sess s).resolve_right fun hx => h hx.1

/-- Where no session awaits its reply, Settle counts no attempt (R184). -/
theorem settle_attempts_of_not_waiting {s : State} (h : s.sess ≠ .awaitingReply) :
    (settle s).attempts = s.attempts := by
  suffices hboth : (settle s).sess ≠ .awaitingReply ∧ (settle s).attempts = s.attempts from hboth.2
  refine settle_induct (fun u => u.sess ≠ .awaitingReply ∧ u.attempts = s.attempts)
    (fun u v hu hv => ?_) (fun _ _ hu => hu) ⟨h, rfl⟩
  rcases settleStep_cases hv with ⟨-, -, rfl⟩ | ⟨-, hs, -, -, rfl⟩ | ⟨-, hs, -, -, rfl⟩
  · rw [syncTimeoutAct_sess, syncTimeoutAct_attempts]; exact hu
  · exact absurd hs hu.1
  · exact absurd hs hu.1

/-- The attempt counter against ACK_MAX: within it while a session awaits its reply, and at it when the session is exhausted (R44, R193). -/
structure AttemptsWithinMax (s : State) : Prop where
  waiting : s.sess = .awaitingReply → s.attempts ≤ s.ackMax
  exhausted : s.sess = .exhausted → s.attempts = s.ackMax

theorem AttemptsWithinMax.of_waiting {s : State} (hs : s.sess = .awaitingReply)
    (ha : s.attempts ≤ s.ackMax) : AttemptsWithinMax s :=
  ⟨fun _ => ha, fun hx => by rw [hs] at hx; cases hx⟩

/-- Settle exhausts a session only with all its attempts counted (R184). -/
theorem AttemptsWithinMax.settle {s : State} (h : AttemptsWithinMax s) :
    AttemptsWithinMax (settle s) := by
  refine settle_induct AttemptsWithinMax (fun u v hu hv => ?_) (fun _ _ hu => ⟨hu.1, hu.2⟩) h
  have hack := (settleStep_same hv).ackMax
  rcases settleStep_cases hv with ⟨-, -, rfl⟩ | ⟨-, hs, -, ha, rfl⟩ | ⟨-, hs, -, ha, rfl⟩
  · constructor <;> rw [syncTimeoutAct_sess, syncTimeoutAct_attempts, hack]
    · exact hu.waiting
    · exact hu.exhausted
  · exact ⟨nofun, fun _ => BitVec.le_antisymm (hu.waiting hs) ha⟩
  · refine .of_waiting hs ?_
    have hle : u.attempts + 1 ≤ u.ackMax := by
      rw [BitVec.le_def, toNat_succ_of_lt ha]; exact BitVec.lt_def.1 ha
    exact hle

/- ## The session in each turn -/

/-- While an operation runs, the host can only read (R212 to R214). -/
theorem hostStep_of_busy {s t : State} (h : HostStep s t) (hb : s.busy = true) :
    ∃ v, t = { s with hostData := v } := by
  cases h with
  | read v => exact ⟨v, rfl⟩
  | syncMax _ hn | ackMax _ hn | txId _ hn | txLen _ hn | byteWrite _ _ hn | encode _ hn | recv hn
  | send _ hn => rw [hb] at hn; cases hn

/-- A command starts its session in IDLE or, for SEND, in SENDING; no other access changes the session (R92, R180). -/
theorem hostStep_sess {s t : State} (h : HostStep s t) : t.sess = s.sess ∨
    s.busy = false ∧ (t.sess = .idle ∨ t.sess = .sending) := by
  cases h with
  | read | syncMax | ackMax | txId | txLen | byteWrite => exact .inl rfl
  | encode p hb => exact .inr ⟨hb, .inl (settle_sess_of_not_waiting Sess.noConfusion)⟩
  | recv hb => exact .inr ⟨hb, .inl (settle_sess_of_not_waiting Sess.noConfusion)⟩
  | send p hb => exact .inr ⟨hb, .inr (settle_sess_of_not_waiting Sess.noConfusion)⟩

/-- A decode's end keeps the session state, or ends the session of a SEND (R185, R188, R189). -/
theorem decodeEnd_session {o : ResultReg} {w u : State} (h : DecodeEnd o w u) :
    u.sess = w.sess ∨
    w.op ≠ .recv ∧ (u.sess = .failed ∨ u.sess = .nacked ∨ u.sess = .acked) := by
  cases h with
  | recv | goesOn => exact .inl rfl
  | fatal hop => exact .inr ⟨hop, .inl rfl⟩
  | nack hop => exact .inr ⟨hop, .inr (.inl rfl)⟩
  | ack hop => exact .inr ⟨hop, .inr (.inr rfl)⟩

/-- An answer of RXCH keeps the session state up to Settle, or ends a session that awaits its reply (R185 to R189). -/
theorem rxStep_session {v u : State} {e : RxEvent} (h : RxStep v e u) (hc : ControlUpToSettle v)
    (hd : v.dec ≠ .idle) : u.sess = v.sess ∨
    v.sess = .awaitingReply ∧ (u.sess = .failed ∨ u.sess = .nacked ∨ u.sess = .acked) := by
  rcases rxStep_control h hd with ⟨-, hsame⟩ | ⟨w, o, -, hsame, hend⟩
  · exact .inl hsame.sess
  · rcases decodeEnd_session hend with hs | ⟨hop, hs⟩
    · exact .inl (hs.trans hsame.sess)
    · rw [hsame.op] at hop
      exact .inr ⟨((hc.decode_runs hd).2.resolve_left hop).2, hs⟩

/-- Settles O51, turn by turn: the event takes one of the listed transitions or none, and Settle may then exhaust the session. -/
theorem sessionTransitionsAreTheListed : Obligations.SessionTransitionsAreTheListed := by
  intro s t hc hstep hreset
  rcases step_cases hstep with ⟨rest, hr, -⟩ | ⟨r, rest, rs, -, -, hx⟩ | ⟨a, rest, as, ha, rfl⟩ |
    ⟨e, rest, es, u, ha, hu, rfl⟩ | ⟨rfl, -⟩
  · exact absurd hr (hreset rest)
  · exact (hostStep_sess (exec_decodeHost_next hx)).imp_right .inl
  · have hs := hc.sending_of_txAnswers ha
    refine .inr (.inr (.inl ⟨(hc.sending_runs hs).1, hs, ?_⟩))
    cases a with
    | writeErr => exact .inl (settle_sess_of_not_waiting Sess.noConfusion)
    | writeOk => exact .inr ((settle_sess _).imp id And.right)
  · have hd := hc.decodes_of_rxAnswers ha
    have hv : ControlUpToSettle (rxTaken s rest es) := { hc.upToSettle with }
    have hb : s.busy = true := (hc.decode_runs hd).1
    rcases rxStep_session hu hv hd with hsame | ⟨hs, hended⟩
    · rcases settle_sess u with h | ⟨hw, h⟩
      · exact .inl (h.trans hsame)
      · exact .inr (.inr (.inr ⟨hb, hsame.symm.trans hw, .inr (.inr (.inr h))⟩))
    · have hkeep : (settle u).sess = u.sess :=
        settle_sess_of_not_waiting fun hx => by simp [hx] at hended
      rw [← hkeep] at hended
      refine .inr (.inr (.inr ⟨hb, hs, ?_⟩))
      rcases hended with h | h | h
      · exact .inl h
      · exact .inr (.inl h)
      · exact .inr (.inr (.inl h))
  · exact .inl rfl

/- ## The attempt counter -/

/-- What R193 says of the attempt counter in the state `t` when the step from `s` ends a SEND. -/
def EndCounted (s t : State) : Prop :=
  (t.sess = .exhausted → t.attempts = t.ackMax) ∧
  (t.sess = .acked ∨ t.sess = .nacked → 1 ≤ t.attempts.toNat ∧ t.attempts ≤ t.ackMax) ∧
  (t.sess = .failed → (s.sess = .sending ∧ t.attempts = 0) ∨
    (s.sess = .awaitingReply ∧ 1 ≤ t.attempts.toNat ∧ t.attempts ≤ t.ackMax))

/-- A session that goes on, or starts, has nothing to count. -/
theorem EndCounted.of_not_terminal {s t : State} (h : t.sess.terminal = false) : EndCounted s t := by
  have hne {x : Sess} (hx : x.terminal = true) : t.sess ≠ x := fun he => by
    rw [he, hx] at h; cases h
  exact ⟨fun hs => absurd hs (hne rfl), fun hs => (hs.elim (hne rfl) (hne rfl)).elim,
    fun hs => absurd hs (hne rfl)⟩

theorem EndCounted.of_exhausted {s t : State} (h : AttemptsWithinMax t)
    (hs : t.sess = .exhausted) : EndCounted s t :=
  ⟨h.exhausted, fun hx => by simp [hs] at hx, fun hx => by simp [hs] at hx⟩

/-- A reply or a fatal error ends the session in an attempt that was counted. -/
theorem EndCounted.of_attempt {s t : State} (hs : s.sess = .awaitingReply)
    (ht : t.sess ≠ .exhausted) (ha : 1 ≤ t.attempts.toNat ∧ t.attempts ≤ t.ackMax) :
    EndCounted s t :=
  ⟨fun hx => absurd hx ht, fun _ => ha, fun _ => .inr ⟨hs, ha⟩⟩

/-- An answer of TXCH ends the SEND before its first attempt, or lets Settle make the attempts there are (R181, R182). -/
theorem EndCounted.of_txAnswer {s v : State} (a : TxAnswer) (hs : s.sess = .sending)
    (hv : v.attempts = 0) : EndCounted s (settle (blockTx a v)) := by
  cases a with
  | writeErr =>
    have hsess : (settle (txWriteErr v)).sess = .failed := settle_sess_of_not_waiting Sess.noConfusion
    have hatt : (settle (txWriteErr v)).attempts = 0 :=
      (settle_attempts_of_not_waiting Sess.noConfusion).trans hv
    rw [blockTx]
    exact ⟨fun hx => by simp [hsess] at hx, fun hx => by simp [hsess] at hx, fun _ => .inl ⟨hs, hatt⟩⟩
  | writeOk =>
    have hzero : v.attempts ≤ v.ackMax := by rw [hv]; exact Nat.zero_le _
    have hcount : AttemptsWithinMax (settle (txWriteOk v)) :=
      (AttemptsWithinMax.of_waiting (s := txWriteOk v) rfl hzero).settle
    rw [blockTx]
    rcases settle_sess (txWriteOk v) with h | ⟨-, h⟩
    · exact .of_not_terminal (by rw [h]; rfl)
    · exact .of_exhausted hcount h

/-- An answer of RXCH that takes the session on ends it in an attempt that was counted, or with all of them counted (R184 to R189). -/
theorem EndCounted.of_rxAnswer {v u : State} {e : RxEvent} (hc : ControlUpToSettle v)
    (hd : v.dec ≠ .idle) (hu : RxStep v e u) (hne : v.sess ≠ (settle u).sess)
    (hp : v.sess = .awaitingReply → 1 ≤ v.attempts.toNat ∧ v.attempts ≤ v.ackMax) :
    EndCounted v (settle u) := by
  have hatt := rxStep_attempts hu
  have hack := (rxStep_same hu).ackMax
  rcases rxStep_session hu hc hd with hsame | ⟨hs, hended⟩
  · rcases settle_sess u with h | ⟨hw, h⟩
    · exact absurd (h.trans hsame).symm hne
    · have hle : u.attempts ≤ u.ackMax := by
        rw [hatt, hack]; exact (hp (hsame.symm.trans hw)).2
      exact .of_exhausted (AttemptsWithinMax.of_waiting hw hle).settle h
  · have hwait : u.sess ≠ .awaitingReply := fun hx => by simp [hx] at hended
    have hsess := settle_sess_of_not_waiting hwait
    have hnot : (settle u).sess ≠ .exhausted := fun hx => by simp [← hsess, hx] at hended
    refine .of_attempt hs hnot ?_
    rw [settle_attempts_of_not_waiting hwait, (settle_same u).ackMax, hatt, hack]
    exact hp hs

/-- Settles O52, turn by turn: while an operation runs, only RESET and an answer of a channel change the session. -/
theorem attemptsAreCounted : Obligations.AttemptsAreCounted := by
  intro s t hc hp hstep _ hb hne
  rcases step_cases hstep with ⟨rest, -, rfl⟩ | ⟨r, rest, rs, -, -, hx⟩ | ⟨a, rest, as, ha, rfl⟩ |
    ⟨e, rest, es, u, ha, hu, rfl⟩ | ⟨rfl, -⟩
  · exact EndCounted.of_not_terminal rfl
  · obtain ⟨v, rfl⟩ := hostStep_of_busy (exec_decodeHost_next hx) hb
    exact absurd rfl hne
  · have hs := hc.sending_of_txAnswers ha
    exact EndCounted.of_txAnswer a hs (hp.no_attempt_yet hs)
  · have hv : ControlUpToSettle (rxTaken s rest es) := { hc.upToSettle with }
    have hcounted := EndCounted.of_rxAnswer hv (hc.decodes_of_rxAnswers ha) hu hne hp.attempt_counted
    exact hcounted
  · exact absurd rfl hne

/- ## The write to the channel -/

/-- No host access writes to the channel (R70). -/
theorem hostStep_txSent {s t : State} (h : HostStep s t) : t.txSent = s.txSent := by
  cases h with
  | read | syncMax | ackMax | txId | txLen | byteWrite => rfl
  | encode | recv | send => exact (settle_same _).txSent

/-- Settles O53, turn by turn: only a WriteOk records a frame, which FrameInv knows to be the command's, and it leaves SENDING. -/
theorem channelIsWrittenOncePerSend : Obligations.ChannelIsWrittenOncePerSend := by
  intro s t hc hf hstep
  rcases step_cases hstep with ⟨rest, hr, rfl⟩ | ⟨r, rest, rs, hr, -, hx⟩ | ⟨a, rest, as, ha, rfl⟩ |
    ⟨e, rest, es, u, ⟨hr, -⟩, hu, rfl⟩ | ⟨rfl, -, hn, -⟩
  · exact .inl ⟨rfl, fun _ _ _ ⟨hx, _⟩ => by rw [hr] at hx; cases hx⟩
  · have hsent := hostStep_txSent (exec_decodeHost_next hx)
    exact .inl ⟨hsent, fun _ _ _ ⟨hy, _⟩ => by rw [hr] at hy; cases hy⟩
  · have hs := hc.sending_of_txAnswers ha
    cases a with
    | writeErr =>
      obtain ⟨-, hq, -⟩ := ha
      exact .inl ⟨(settle_same _).txSent, fun _ _ _ ⟨_, hx, _⟩ => by rw [hq] at hx; cases hx⟩
    | writeOk =>
      obtain ⟨-, p, hpayload, hframe⟩ := hf.2 hs
      refine .inr ⟨hs, settle_ne_sending Sess.noConfusion, rest, as, p, ha, hpayload, ?_⟩
      rw [(settle_same _).txSent, ← hframe]
      rfl
  · exact .inl ⟨(settle_same u).txSent.trans (rxStep_same hu).txSent,
      fun _ _ _ ⟨hx, _⟩ => by rw [hr] at hx; cases hx⟩
  · exact .inl ⟨rfl, fun rest as _ => hn _ rest as⟩

end Sys2Proof.Machine

/-! PROOFS. An operation ends within its bound: the channel answers it still takes go down with every answer, and up with none (R159, R194, R281, R282). -/

namespace Sys2Proof.Machine

/- ## The answers left -/

/-- A running decode has an answer to come. -/
theorem decodeLeft_pos {s : State} (h : s.dec ≠ .idle) : 0 < decodeLeft s := by
  unfold decodeLeft
  split
  · next hd => exact absurd hd h
  all_goals omega

theorem decodeLeft_of_idle {s : State} (h : s.dec = .idle) : decodeLeft s = 0 := by
  rw [decodeLeft, h]

theorem answersLeft_of_ended {s : State} (h : s.busy = false) : answersLeft s = 0 := by
  rw [answersLeft, if_pos h]

theorem answersLeft_of_recv {s : State} (hb : s.busy = true) (hop : s.op = .recv) :
    answersLeft s = decodeLeft s := by
  rw [answersLeft, hb, if_neg Bool.noConfusion, if_pos hop]

theorem answersLeft_of_send {s : State} (hb : s.busy = true) (hop : s.op ≠ .recv) :
    answersLeft s = (if s.sess = .sending then 1 else 0) + decodeLeft s
      + (s.ackMax.toNat - s.attempts.toNat) * decodeMost s := by
  rw [answersLeft, hb, if_neg Bool.noConfusion, if_neg hop]

/-- An operation with a session is a SEND (R26). -/
theorem ControlUpToSettle.op_ne_recv {s : State} (h : ControlUpToSettle s) (hs : s.sess ≠ .idle) :
    s.op ≠ .recv := by
  rw [h.sess_of_send.2 hs]; exact OpCode.noConfusion

/-- An operation that runs has an answer to come: its decode's, or TXCH's (R24, R282). -/
theorem ControlInv.answersLeft_pos {s : State} (h : ControlInv s) (hb : s.busy = true) :
    0 < answersLeft s := by
  by_cases hop : s.op = .recv
  · have hsess : s.sess ≠ .sending := fun hs => h.upToSettle.op_ne_recv (by simp [hs]) hop
    rw [answersLeft_of_recv hb hop]
    exact decodeLeft_pos ((h.busy_waits hb).resolve_right hsess)
  · rw [answersLeft_of_send hb hop]
    rcases h.busy_waits hb with hd | hs
    · have := decodeLeft_pos hd; omega
    · rw [if_pos hs]; omega

/-- An operation comes nearer to its end when its decode does, if no attempt is counted and no frame presented. -/
theorem answersLeft_lt_of_decodeLeft {s t : State} (hb : s.busy = true) (hop : t.op = s.op)
    (hs : t.sess = .sending → s.sess = .sending) (hsync : t.syncMax = s.syncMax) (hack : t.ackMax = s.ackMax)
    (hatt : t.attempts = s.attempts) (hlt : decodeLeft t < decodeLeft s) :
    answersLeft t < answersLeft s := by
  have hmost : decodeMost t = decodeMost s := by rw [decodeMost, decodeMost, hsync]
  cases htb : t.busy with
  | false =>
    rw [answersLeft_of_ended htb]
    by_cases ho : s.op = .recv
    · rw [answersLeft_of_recv hb ho]; omega
    · rw [answersLeft_of_send hb ho]; omega
  | true =>
    by_cases ho : s.op = .recv
    · rw [answersLeft_of_recv hb ho, answersLeft_of_recv htb (hop.trans ho)]
      exact hlt
    · rw [answersLeft_of_send hb ho, answersLeft_of_send htb (by rwa [hop]), hack, hatt, hmost]
      have hframe : (if t.sess = .sending then 1 else 0) ≤ if s.sess = .sending then 1 else 0 := by
        split_ifs with ht hn
        · exact le_rfl
        · exact absurd (hs ht) hn
        all_goals omega
      omega

/-- The attempt that starts was among those left, and its decode takes what an attempt takes at most (R184, R194). -/
theorem answersLeft_attempt {s : State} (hb : s.busy = true) (hop : s.op ≠ .recv)
    (hd : s.dec = .idle) (hs : s.sess = .awaitingReply) (ha : s.attempts < s.ackMax) :
    answersLeft (decodeStart { s with attempts := s.attempts + 1 }) = answersLeft s := by
  have hlt := BitVec.lt_def.1 ha
  have hleft : s.ackMax.toNat - s.attempts.toNat = s.ackMax.toNat - (s.attempts + 1).toNat + 1 := by
    rw [toNat_succ_of_lt ha]; omega
  have hscan : decodeLeft (decodeStart { s with attempts := s.attempts + 1 }) = decodeMost s := rfl
  have hmost : decodeMost (decodeStart { s with attempts := s.attempts + 1 }) = decodeMost s := rfl
  rw [answersLeft_of_send (by exact hb) (by exact hop), answersLeft_of_send hb hop, hscan, hmost,
    decodeLeft_of_idle hd, hleft, Nat.succ_mul]
  simp only [decodeStart_sess, decodeStart_ackMax, decodeStart_attempts, hs, reduceCtorEq, if_false]
  omega

/- ## Settle -/

/-- An input-free transition takes no operation further from its end: an attempt that starts was among those left (R143, R184, R194). -/
theorem answersLeft_settleStep_le {s t : State} (hc : ControlUpToSettle s)
    (h : settleStep s = some t) : answersLeft t ≤ answersLeft s := by
  have hsame := settleStep_same h
  rcases settleStep_cases h with ⟨hd, -, rfl⟩ | ⟨-, -, -, -, rfl⟩ | ⟨hb, hs, hd, ha, rfl⟩
  · have hrun : s.dec ≠ .idle := by rw [hd]; exact Phase.noConfusion
    have hidle : (syncTimeoutAct s).dec = .idle := endDecode_dec ..
    refine (answersLeft_lt_of_decodeLeft (hc.decode_runs hrun).1 hsame.op (syncTimeoutAct_sess s ▸ id)
      hsame.syncMax hsame.ackMax (syncTimeoutAct_attempts s) ?_).le
    rw [decodeLeft_of_idle hidle]
    exact decodeLeft_pos hrun
  · exact (answersLeft_of_ended rfl).trans_le (Nat.zero_le _)
  · exact (answersLeft_attempt hb (hc.op_ne_recv (by simp [hs])) hd hs ha).le

/-- Settle takes no operation further from its end. -/
theorem answersLeft_settle_le {s : State} (hc : ControlUpToSettle s) :
    answersLeft (settle s) ≤ answersLeft s := by
  suffices hboth : ControlUpToSettle (settle s) ∧ answersLeft (settle s) ≤ answersLeft s from hboth.2
  exact settle_induct (fun u => ControlUpToSettle u ∧ answersLeft u ≤ answersLeft s)
    (fun u v hu hv => ⟨hu.1.of_settleStep hv, (answersLeft_settleStep_le hu.1 hv).trans hu.2⟩)
    (fun u b hu => ⟨{ hu.1 with }, hu.2⟩) ⟨hc, le_rfl⟩

/- ## The answers of the channels -/

/-- Every answer of RXCH brings the running decode nearer to its end (R159). -/
theorem decodeLeft_lt_of_rxStep {v u : State} {e : RxEvent} (hp : ParserInv v)
    (hi : v.dec ≠ .idle) (h : RxStep v e u) : decodeLeft u < decodeLeft v := by
  cases h with
  | idle b hd => exact absurd hd hi
  | scan b hd =>
    obtain ⟨hlt, -⟩ := hp.scan_goes_on hd
    have hsucc := toNat_succ_of_lt hlt
    have := BitVec.lt_def.1 hlt
    simp only [decodeLeft, hd, hsucc]
    omega
  | marker b hd =>
    have := BitVec.lt_def.1 (hp.scan_goes_on hd).1
    simp only [decodeLeft, hd]
    omega
  | payload b hd =>
    have hopen := hp.payload_open hd
    have := v.rxLenf.isLt
    have hsucc : (v.rxCount + 1).toNat = v.rxCount.toNat + 1 := by bv_omega
    rw [payloadByte_eq]
    split <;> simp only [decodeLeft, hd, hsucc] <;> omega
  | lenHi b hd | lenLo b hd | trailer0 b hd =>
    simp [decodeLeft, hd, lenHiByte, lenLoByte, trailer0Byte]
  | idNoPayload b hd | checksum b hd => simp [decodeLeft, hd]
  | idPayload b hd => simp only [decodeLeft, hd]; omega
  | ends he hend =>
    rw [decodeLeft_of_idle (decodeEnd_dec hend)]
    exact decodeLeft_pos hi

/-- Every answer of RXCH brings the running operation nearer to its end, up to Settle (R282). -/
theorem answersLeft_lt_of_rxStep {v u : State} {e : RxEvent} (hc : ControlUpToSettle v)
    (hp : ParserInv v) (hi : v.dec ≠ .idle) (h : RxStep v e u) : answersLeft u < answersLeft v := by
  have hsame := rxStep_same h
  have hs : u.sess = .sending → v.sess = .sending := fun hx =>
    (rxStep_sess h hi).elim (fun hsess => hsess ▸ hx) (fun hterm => absurd hx (ne_sending_of_terminal hterm))
  exact answersLeft_lt_of_decodeLeft (hc.decode_runs hi).1 hsame.op hs hsame.syncMax hsame.ackMax
    (rxStep_attempts h) (decodeLeft_lt_of_rxStep hp hi h)

theorem answersLeft_lt_of_rxAnswers {s t : State} {e : RxEvent} {rest : List Agent}
    {es : List RxEvent} (hc : ControlInv s) (hp : ParserInv s) (h : rxAnswers s e rest es)
    (hstep : step s = .next t) : answersLeft t < answersLeft s := by
  obtain ⟨u, hu, hrun⟩ := runBlock_blockRx e (rxTaken s rest es)
  rw [step_rx h, hrun] at hstep
  cases hstep
  have hi := hc.decodes_of_rxAnswers h
  have hv : ControlUpToSettle (rxTaken s rest es) := { hc.upToSettle with }
  calc answersLeft (settle u) ≤ answersLeft u := answersLeft_settle_le (hv.of_rxStep hi hu)
    _ < answersLeft (rxTaken s rest es) := answersLeft_lt_of_rxStep hv { hp with } hi hu

/-- Every answer of TXCH brings the SEND nearer to its end, up to Settle: with WriteErr it has ended, and with WriteOk no frame is to be written any more (R181, R182, R282). -/
theorem answersLeft_lt_of_blockTx {s : State} (a : TxAnswer) (hc : ControlInv s)
    (hs : s.sess = .sending) : answersLeft (blockTx a s) < answersLeft s := by
  obtain ⟨hb, hd⟩ := hc.sending_runs hs
  cases a with
  | writeErr => exact (answersLeft_of_ended rfl).trans_lt (hc.answersLeft_pos hb)
  | writeOk =>
    have hsend := hc.upToSettle.op_ne_recv (by simp [hs])
    have hwait : answersLeft (txWriteOk s) =
        0 + decodeLeft s + (s.ackMax.toNat - s.attempts.toNat) * decodeMost s :=
      answersLeft_of_send (by exact hb) (by exact hsend)
    rw [blockTx, hwait, answersLeft_of_send hb hsend, if_pos hs]
    omega

theorem answersLeft_lt_of_txAnswers {s t : State} {a : TxAnswer} {rest : List Agent}
    {as : List TxAnswer} (hc : ControlInv s) (h : txAnswers s a rest as)
    (hstep : step s = .next t) : answersLeft t < answersLeft s := by
  rw [step_tx h] at hstep
  cases hstep
  have hs := hc.sending_of_txAnswers h
  have hv : ControlInv { s with sched := rest, txQ := as } := { hc with }
  exact (answersLeft_settle_le (hv.of_blockTx a hs)).trans_lt (answersLeft_lt_of_blockTx a hv hs)

/-- No step takes a running operation further from its end (R282). -/
theorem answersLeft_le_of_step {s t : State} (hc : ControlInv s) (hp : ParserInv s)
    (hb : s.busy = true) (hstep : step s = .next t) : answersLeft t ≤ answersLeft s := by
  rcases step_cases hstep with ⟨rest, -, rfl⟩ | ⟨r, rest, rs, -, -, hx⟩ | ⟨a, rest, as, ha, -⟩ |
    ⟨e, rest, es, u, ha, -, -⟩ | ⟨rfl, -⟩
  · exact (answersLeft_of_ended rfl).trans_le (Nat.zero_le _)
  · obtain ⟨v, rfl⟩ := hostStep_of_busy (exec_decodeHost_next hx) hb
    exact le_rfl
  · exact (answersLeft_lt_of_txAnswers hc ha hstep).le
  · exact (answersLeft_lt_of_rxAnswers hc hp ha hstep).le
  · exact le_rfl

/- ## The commands -/

/-- ENCODE and SEND answer a next state only over a written payload that fits its frame (R125, R126, R213). -/
theorem frameCommand_written {i : Instr} {s t : State} (hi : i = .encode ∨ i = .send)
    (h : exec i s = .next t) : s.busy = false ∧ s.txLen ≠ 65535 ∧ ∃ p, txPayload s = some p := by
  rcases hi with rfl | rfl
  · simp only [exec, execEncode, refuse] at h
    split_ifs at h with hb
    by_cases hl : s.txLen = 65535
    · rw [startEncode_overlong hl] at h; cases h
    · cases hp : txPayload s with
      | none => rw [startEncode_unwritten hl hp] at h; cases h
      | some p => exact ⟨by simpa using hb, hl, p, rfl⟩
  · simp only [exec, execSend, refuse] at h
    split_ifs at h with hb
    by_cases hl : s.txLen = 65535
    · rw [startSend_overlong hl] at h; cases h
    · cases hp : txPayload s with
      | none => rw [startSend_unwritten hl hp] at h; cases h
      | some p => exact ⟨by simpa using hb, hl, p, rfl⟩

/-- An ENCODE ends in its command step (R127). -/
theorem exec_encode_next_busy {s t : State} (hd : s.dec = .idle) (h : exec .encode s = .next t) :
    t.busy = false := by
  obtain ⟨hb, hl, p, hp⟩ := frameCommand_written (.inl rfl) h
  obtain ⟨hnext, -⟩ := encodeCompletes s
  rw [hnext p hb hd (mt (txLen_eq_max_iff s).2 hl) hp] at h
  cases h
  rfl

/-- A RECV starts with at most the answers of one decode to come (R194, R282). -/
theorem answersLeft_recv_le {s t : State} (h : exec .recv s = .next t) :
    answersLeft t ≤ s.syncMax.toNat + 65540 := by
  have hb : s.busy = false := by
    simp only [exec, execRecv, refuse] at h
    split_ifs at h with hb
    simpa using hb
  rw [recvCompletes s hb] at h
  split_ifs at h
  · cases h
    exact (answersLeft_of_ended rfl).trans_le (Nat.zero_le _)
  · cases h
    exact (answersLeft_of_recv rfl rfl).le

/-- A SEND starts with its frame's answer and the answers of ACK_MAX decodes to come (R194, R282). -/
theorem answersLeft_send_le {s t : State} (hd : s.dec = .idle) (h : exec .send s = .next t) :
    answersLeft t ≤ 1 + s.ackMax.toNat * (s.syncMax.toNat + 65540) := by
  obtain ⟨hb, hl, p, hp⟩ := frameCommand_written (.inr rfl) h
  rw [sendCompletes s p hb hd (mt (txLen_eq_max_iff s).2 hl) hp] at h
  cases h
  rw [answersLeft_of_send rfl OpCode.noConfusion, if_pos rfl, decodeLeft_of_idle (by exact hd)]
  exact le_rfl

/-- Settles O54: the bounds hold of the states that the commands leave, and the measure goes down turn by turn; with none left no invariant lets an operation run. -/
theorem operationsEndWithinTheirBound : Obligations.OperationsEndWithinTheirBound := by
  refine ⟨fun s t => exec_encode_next_busy, fun s t => answersLeft_recv_le,
    fun s t => answersLeft_send_le, fun s t hc hp hstep => ⟨?_, fun hb => ?_, fun hzero => ?_⟩⟩
  · rintro (⟨e, rest, es, h⟩ | ⟨a, rest, as, h⟩)
    · exact answersLeft_lt_of_rxAnswers hc hp h hstep
    · exact answersLeft_lt_of_txAnswers hc h hstep
  · exact answersLeft_le_of_step hc hp hb hstep
  · by_contra hb
    have hpos := (everyStepKeepsControl s t hc hstep).answersLeft_pos (by simpa using hb)
    omega

end Sys2Proof.Machine

/-! PROOFS. The host bus: what a register reads as and which writes of it complete (R211, R212, R215, R218), reads and writes of a buffer byte (R214), and the cause of every refusal (R219). -/

namespace Sys2Proof.Machine

/- ## Register reads -/

/-- A field put above another one weighs 2^n more, if the lower one has n bits. -/
theorem append_toNat {m n : Nat} (x : BitVec m) (y : BitVec n) :
    (x ++ y).toNat = x.toNat * 2 ^ n + y.toNat := by
  rw [BitVec.toNat_append, ← Nat.shiftLeft_add_eq_or_of_lt y.isLt, Nat.shiftLeft_eq]

theorem resultWord_toNat (r : ResultReg) : (resultWord r).toNat = resultImage r := by
  rw [resultWord, BitVec.toNat_setWidth_of_le (by decide), resultImage]
  simp only [append_toNat, BitVec.toNat_ofBool, BitVec.toNat_ofNat]
  omega

theorem statusWord_toNat (s : State) : (statusWord s).toNat = regImage .status s := by
  rw [statusWord, BitVec.toNat_setWidth_of_le (by decide), regImage]
  simp only [append_toNat, BitVec.toNat_ofBool, BitVec.toNat_ofNat]
  omega

/-- The word a register reads as is the sum of its fields by their weights; every other bit is 0 (R211, R218). -/
theorem regWord_toNat (r : Reg) (s : State) : (regWord r s).toNat = regImage r s := by
  cases r with
  | cmd | syncMax | ackMax | syncCnt | syncDisc | attempts => rfl
  | txId | txLen | rxId | rxLenf | rxCount | frameLen => exact BitVec.toNat_setWidth_of_le (by decide)
  | status => exact statusWord_toNat s
  | result => exact resultWord_toNat s.result
  | lastDec => exact resultWord_toNat s.lastDec
  | check | trailer => exact (BitVec.toNat_setWidth_of_le (by decide)).trans (append_toNat _ _)
  | syncPrev =>
    refine (BitVec.toNat_setWidth_of_le (by decide)).trans ((append_toNat _ _).trans ?_)
    rw [BitVec.toNat_ofBool]
    rfl

/-- Settles O8: a register's own offset reads its word, and the word's number is the register's image. -/
theorem readRegisterCompletes : Obligations.ReadRegisterCompletes :=
  fun r s => ⟨regWord r s, exec_rd_reg r s, regWord_toNat r s⟩

/- ## Register writes -/

theorem writable_eq_false {r : Reg} (hcmd : r ≠ .cmd) (hsync : r ≠ .syncMax) (hack : r ≠ .ackMax)
    (hid : r ≠ .txId) (hlen : r ≠ .txLen) : writable r = false := by
  unfold writable
  split
  · exact absurd rfl hcmd
  · exact absurd rfl hsync
  · exact absurd rfl hack
  · exact absurd rfl hid
  · exact absurd rfl hlen
  · rfl

/-- A write of a read-only register is refused before BUSY is looked at (R212). -/
theorem regWrite_of_readOnly {r : Reg} (h : writable r = false) (d : Word) (s : State) :
    regWrite r d s = refuse .readOnly s :=
  if_pos h

/-- Settles O14: the thirteen other registers are not writable. -/
theorem readOnlyRegistersRefuseWrites : Obligations.ReadOnlyRegistersRefuseWrites :=
  fun r d s hcmd hsync hack hid hlen =>
    (exec_wr_reg r d s).trans (regWrite_of_readOnly (writable_eq_false hcmd hsync hack hid hlen) d s)

/-- A TX_ID word has no reserved bit set exactly when it is below 2^8 (R215). -/
theorem txIdWrite_eq (d : Word) (s : State) :
    txIdWrite d s =
      if d.toNat < 2 ^ 8 then .next { s with txId := BitVec.ofNat 8 d.toNat }
      else refuse .reservedBits s := by
  simp only [txIdWrite, txIdRsvd, ne_eq, upper_eq_zero_iff d 8 24 rfl, ite_not, BitVec.ofNat_toNat]

/-- A TX_LEN word has no reserved bit set exactly when it is below 2^16 (R215). -/
theorem txLenWrite_eq (d : Word) (s : State) :
    txLenWrite d s =
      if d.toNat < 2 ^ 16 then .next { s with txLen := BitVec.ofNat 16 d.toNat }
      else refuse .reservedBits s := by
  simp only [txLenWrite, txLenRsvd, ne_eq, upper_eq_zero_iff d 16 16 rfl, ite_not, BitVec.ofNat_toNat]

/-- While no operation runs, a WR of a writable register goes on with that register's own rule `o` (R212). -/
theorem exec_wr_of_idle (r : Reg) {d : Word} {s : State} {o : Host.Outcome State Fault Refusal}
    (hb : s.busy = false) (ho : regWrite r d s = if s.busy then refuse .busy s else o) :
    exec (.wr (regOffset r) d) s = o := by
  rw [exec_wr_reg, ho, hb, if_neg Bool.false_ne_true]

/-- Settles O9: each of the four offsets leads to its register's rule. -/
theorem writeRegisterCompletes : Obligations.WriteRegisterCompletes :=
  fun d s hb =>
    ⟨exec_wr_of_idle .syncMax hb rfl, exec_wr_of_idle .ackMax hb rfl,
      (exec_wr_of_idle .txId hb rfl).trans (txIdWrite_eq d s),
      (exec_wr_of_idle .txLen hb rfl).trans (txLenWrite_eq d s)⟩

/- ## Buffer bytes -/

/-- RDB of a buffer address reads that byte (R210, R214). -/
theorem exec_rdb_buf {a : BitVec 20} {b : Buf} (h : region a.toNat = .buf b) (s : State) :
    exec (.rdb a) s = bufRead a.toNat s := by
  simp only [exec, execRdb, hostAccess, h, Bool.false_eq_true, if_false]

/-- WRB of a buffer address writes that byte, with the data byte unchanged by its way over the bus (R210, R214). -/
theorem exec_wrb_buf {a : BitVec 20} {b : Buf} (h : region a.toNat = .buf b) (v : Byte) (s : State) :
    exec (.wrb a v) s = bufWrite b a.toNat v s := by
  have hv : (v.setWidth 32).setWidth 8 = v := by
    rw [BitVec.setWidth_setWidth_of_le _ (by decide), BitVec.setWidth_eq]
  simp only [exec, execWrb, hostAccess, h, hv, Bool.false_eq_true, if_false, if_true]

theorem bufRead_of_written {a : Nat} {v : Byte} {s : State} (h : memRead s.mem a = some v) :
    bufRead a s = .next { s with hostData := v.setWidth 32 } := by
  rw [bufRead, h]

theorem bufRead_of_unwritten {a : Nat} {s : State} (h : memRead s.mem a = none) :
    bufRead a s = raiseUninit s := by
  rw [bufRead, h]

/-- Settles O11, by the byte's written mark. -/
theorem readBufferByteCompletes : Obligations.ReadBufferByteCompletes := by
  intro a b s hr
  rw [exec_rdb_buf hr]
  exact ⟨fun v hv => ⟨_, bufRead_of_written hv, BitVec.toNat_setWidth_of_le (by decide)⟩,
    bufRead_of_unwritten⟩

/-- WRB to a buffer other than TXBUF is refused before BUSY is looked at (R214). -/
theorem exec_wrb_readOnly {a : BitVec 20} {b : Buf} (hr : region a.toNat = .buf b) (hb : b ≠ .txbuf)
    (v : Byte) (s : State) : exec (.wrb a v) s = refuse .readOnly s :=
  (exec_wrb_buf hr v s).trans (if_pos hb)

theorem bufWrite_txbuf_of_idle {a : Nat} {v : Byte} {s : State} (hb : s.busy = false) :
    bufWrite .txbuf a v s = .next { s with mem := memWrite s.mem a v } := by
  rw [bufWrite, if_neg (not_not_intro rfl), hb, if_neg Bool.false_ne_true]

/-- Settles O12: the region of the address names the buffer, and a write leaves every other byte and mark alone. -/
theorem writeBufferByteCompletes : Obligations.WriteBufferByteCompletes := by
  refine ⟨fun a v s hlo hhi hb => ⟨memWrite s.mem a.toNat v, ?_, memRead_memWrite_same ..,
    fun x hx => memRead_memWrite_other _ _ _ _ hx⟩, fun a v s h => ?_⟩
  · rw [exec_wrb_buf (region_txbuf hlo hhi), bufWrite_txbuf_of_idle hb]
  · rcases h with ⟨hlo, hhi⟩ | ⟨hlo, hhi⟩
    · exact exec_wrb_readOnly (region_rxbuf hlo hhi) Buf.noConfusion v s
    · exact exec_wrb_readOnly (region_framebuf hlo hhi) Buf.noConfusion v s

/- ## The cause of every refusal -/

/-- The addresses of the register window (R61). -/
theorem region_eq_reg {a : Nat} : region a = .reg ↔ a ≤ 0x47 := by
  refine ⟨fun h => ?_, region_reg⟩
  by_contra hgt
  rw [region, if_neg hgt] at h
  split_ifs at h

/-- If the outcome `o` of the access `i` is a refusal, it has its row's cause in R219 and leaves the state marked and otherwise as it was. -/
def ListedRefusal (i : Instr) (s : State) (o : Host.Outcome State Fault Refusal) : Prop :=
  ∀ r, o = .refused r → refusalCause i s r ∧ r.left = some { s with refused := true }

section
variable {i : Instr} {s : State}

theorem ListedRefusal.of_next (t : State) : ListedRefusal i s (.next t) := fun _ h => by cases h

theorem ListedRefusal.of_fault (f : Fault) : ListedRefusal i s (.fault f) := fun _ h => by cases h

theorem ListedRefusal.of_refuse {k : State → Refusal}
    (hl : (k { s with refused := true }).left = some { s with refused := true })
    (hc : refusalCause i s (k { s with refused := true })) : ListedRefusal i s (refuse k s) := by
  intro r hr
  rw [refuse_eq hr]
  exact ⟨hc, hl⟩

/-- ENCODE that starts is refused only for the length of its payload (R125). -/
theorem ListedRefusal.of_startEncode (hi : commandWord i = some 1) : ListedRefusal i s (startEncode s) := by
  unfold startEncode
  split_ifs with hl
  · exact .of_refuse rfl ⟨.inl hi, hl⟩
  · split
    · exact .of_fault _
    · exact .of_next _

/-- SEND that starts is refused only for the length of its payload (R125). -/
theorem ListedRefusal.of_startSend (hi : commandWord i = some 3) : ListedRefusal i s (startSend s) := by
  unfold startSend
  split_ifs with hl
  · exact .of_refuse rfl ⟨.inr hi, hl⟩
  · split
    · exact .of_fault _
    · exact .of_next _

/-- A command of an idle block is refused for its OP, for its reserved bits, or by the operation it starts (R213). -/
theorem ListedRefusal.of_cmdWrite {w : Word} (hi : commandWord i = some w) :
    ListedRefusal i s (cmdWrite w s) := by
  unfold cmdWrite
  split_ifs with hop hrsvd h1 h2
  · exact .of_refuse rfl ⟨w, hi, (reservedOp_iff w).1 hop⟩
  · have hbig : 2 ^ 4 ≤ w.toNat := not_lt.1 (mt (upper_eq_zero_iff w 4 28 rfl).2 hrsvd)
    exact .of_refuse rfl (.inl ⟨w, hi, hbig⟩)
  · have hw := eq_opField_of_cmdRsvd (not_not.1 hrsvd)
    exact .of_startEncode (by rw [hi, hw, h1]; rfl)
  · exact .of_next _
  · have hw := eq_opField_of_cmdRsvd (not_not.1 hrsvd)
    have h3 : opField w = 3 := by_contra fun hne => hop ⟨h1, h2, hne⟩
    exact .of_startSend (by rw [hi, hw, h3]; rfl)

theorem ListedRefusal.of_txIdWrite {d : Word} (hi : writesReg .txId i = some d) :
    ListedRefusal i s (txIdWrite d s) := by
  rw [txIdWrite_eq]
  split_ifs with hd
  · exact .of_next _
  · exact .of_refuse rfl (.inr (.inl ⟨d, hi, not_lt.1 hd⟩))

theorem ListedRefusal.of_txLenWrite {d : Word} (hi : writesReg .txLen i = some d) :
    ListedRefusal i s (txLenWrite d s) := by
  rw [txLenWrite_eq]
  split_ifs with hd
  · exact .of_next _
  · exact .of_refuse rfl (.inr (.inr ⟨d, hi, not_lt.1 hd⟩))

/-- A register write is refused READ_ONLY, BUSY, or by its register's own rule (R212). -/
theorem ListedRefusal.of_regWrite {r : Reg} {d : Word} (hr : regWritten i = some r)
    (hcmd : r = .cmd → commandWord i = some d) (hreg : r ≠ .cmd → writesReg r i = some d) :
    ListedRefusal i s (regWrite r d s) := by
  unfold regWrite
  split_ifs with hw hb
  · exact .of_refuse rfl (.inl ⟨r, hr, hw⟩)
  · exact .of_refuse rfl ⟨hb, .inl ⟨r, hr, eq_true_of_ne_false hw⟩⟩
  · split
    · exact .of_cmdWrite (hcmd rfl)
    · exact .of_next _
    · exact .of_next _
    · exact .of_txIdWrite (hreg Reg.noConfusion)
    · exact .of_txLenWrite (hreg Reg.noConfusion)
    · next hn1 hn2 hn3 hn4 hn5 => exact absurd (writable_eq_false hn1 hn2 hn3 hn4 hn5) hw

/-- A command goes the way of a write of its word to CMD (R90, R213). -/
theorem ListedRefusal.of_command {w : Word} (hd : decodeCmd w = i) (hi : commandWord i = some w)
    (hr : regWritten i = some .cmd) : ListedRefusal i s (exec i s) := by
  have hexec : exec i s = regWrite .cmd w s :=
    hd ▸ (writeToCmdIsTheCommand w s).symm.trans (exec_wr_reg .cmd w s)
  rw [hexec]
  exact .of_regWrite hr (fun _ => hi) (fun hn => absurd rfl hn)

theorem ListedRefusal.of_bufRead (a : Nat) : ListedRefusal i s (bufRead a s) := by
  unfold bufRead
  split
  · exact .of_fault _
  · exact .of_next _

/-- A buffer write is refused READ_ONLY outside TXBUF, and BUSY inside it (R214). -/
theorem ListedRefusal.of_bufWrite {b : Buf} {a : Nat} {v : Byte} (hi : bufWritten i = some b) :
    ListedRefusal i s (bufWrite b a v s) := by
  unfold bufWrite
  split_ifs with hb hbusy
  · refine .of_refuse rfl (.inr ?_)
    cases b with
    | txbuf => exact absurd rfl hb
    | rxbuf => exact .inl hi
    | framebuf => exact .inr hi
  · exact .of_refuse rfl ⟨hbusy, .inr (not_not.1 hb ▸ hi)⟩
  · exact .of_next _

/-- An access is refused for its address or its width, or, if it is a write, by the register or the buffer byte it writes (R210). -/
theorem ListedRefusal.of_hostAccess {w sz : Bool} {a : Nat} {d : Word} (ha : accessAddr i = some a)
    (hsz : isWordAccess i = sz)
    (hreg : ∀ r, w = true → sz = true → regAt a = some r → ListedRefusal i s (regWrite r d s))
    (hbuf : ∀ b, w = true → sz = false → region a = .buf b →
      ListedRefusal i s (bufWrite b a (d.setWidth 8) s)) :
    ListedRefusal i s (hostAccess w sz a d s) := by
  unfold hostAccess
  split
  · next hres => exact .of_refuse rfl ⟨a, ha, hres⟩
  · next hwin =>
    split
    · next hbyte => exact .of_refuse rfl ⟨a, ha, .inl ⟨hwin, .inl (hsz.trans hbyte)⟩⟩
    · next hword =>
      split
      · next hnone =>
        have hodd : a % 4 ≠ 0 := (regAt_window (region_eq_reg.1 hwin)).1 hnone
        exact .of_refuse rfl ⟨a, ha, .inl ⟨hwin, .inr hodd⟩⟩
      · next r hr =>
        split_ifs with hw
        · exact hreg r hw (eq_true_of_ne_false hword) hr
        · exact .of_next _
  · next b hb =>
    split_ifs with hbyte hw
    · exact .of_refuse rfl ⟨a, ha, .inr ⟨b, hb, hsz.trans hbyte⟩⟩
    · exact hbuf b hw (eq_false_of_ne_true hbyte) hb
    · exact .of_bufRead a

end

/-- Every refusal is listed, by the cases of the instruction: a reply class is never refused, a command is a write to CMD, and a bus access takes the access path. -/
theorem exec_listedRefusal {i : Instr} (hi : i.wellFormed = true) (s : State) :
    ListedRefusal i s (exec i s) := by
  cases i with
  | encode => exact .of_command (w := 1) rfl rfl rfl
  | recv => exact .of_command (w := 2) rfl rfl rfl
  | send => exact .of_command (w := 3) rfl rfl rfl
  | cmdReserved w => exact .of_command (decodeCmd_of_reserved ((wellFormed_cmdReserved w).1 hi)) rfl rfl
  | rd a => exact .of_hostAccess rfl rfl nofun nofun
  | rdb a => exact .of_hostAccess rfl rfl nofun nofun
  | wr a d =>
    refine .of_hostAccess rfl rfl (fun r _ _ hr => .of_regWrite hr ?_ fun _ => if_pos hr) nofun
    rintro rfl
    have ha : a = 0 := BitVec.eq_of_toNat_eq (regAt_eq_some hr)
    exact if_pos ha
  | wrb a v =>
    refine .of_hostAccess rfl rfl nofun fun b _ _ hb => .of_bufWrite ?_
    rw [bufWritten, hb]
  | nackMatch | ackMatch | unrelated id m => exact .of_next _

/-- Settles O18: the statement is the predicate, for the answer of a well-formed instruction. -/
theorem refusalsAreTheListed : Obligations.RefusalsAreTheListed :=
  fun _ s r hi => exec_listedRefusal hi s r

end Sys2Proof.Machine

/-! PROOFS. The one fault: what a host access that faults has read (R50, R126, R214, R242). -/

namespace Sys2Proof.Machine

/-- The fault is the read of an unwritten byte, and the state it leaves has S.faulted set (R242). -/
def MarkedFault (f : Fault) : Prop := ∃ t : State, f = .uninitRead t ∧ t.faulted = true

section
variable {s : State} {f : Fault}

theorem markedFault_of_raiseUninit {u : State} (h : raiseUninit u = .fault f) : MarkedFault f := by
  cases h; exact ⟨_, rfl, rfl⟩

/- ## The operations that read bytes -/

/-- Of the three outcomes of ENCODE and SEND, one is a fault: that over a payload with an unwritten byte (R125, R126). -/
theorem frameCommand_fault {o : OpCode} {out : Host.Outcome State Fault Refusal}
    {left : List Byte → State} (hover : s.txLen = 65535 → out = refuse .txLenOverflow s)
    (hnone : s.txLen ≠ 65535 → txPayload s = none → out = raiseUninit (commandStart o s))
    (hsome : ∀ {p}, s.txLen ≠ 65535 → txPayload s = some p → out = .next (left p))
    (h : out = .fault f) : txPayload s = none ∧ MarkedFault f := by
  by_cases hl : s.txLen = 65535
  · cases (hover hl).symm.trans h
  · cases hp : txPayload s with
    | none => exact ⟨rfl, markedFault_of_raiseUninit ((hnone hl hp).symm.trans h)⟩
    | some p => cases (hsome hl hp).symm.trans h

theorem startEncode_fault (h : startEncode s = .fault f) : txPayload s = none ∧ MarkedFault f :=
  frameCommand_fault startEncode_overlong startEncode_unwritten startEncode_written h

theorem startSend_fault (h : startSend s = .fault f) : txPayload s = none ∧ MarkedFault f :=
  frameCommand_fault startSend_overlong startSend_unwritten startSend_written h

theorem bufRead_fault {a : Nat} (h : bufRead a s = .fault f) :
    memRead s.mem a = none ∧ MarkedFault f := by
  cases hv : memRead s.mem a with
  | none => rw [bufRead_of_unwritten hv] at h; exact ⟨rfl, markedFault_of_raiseUninit h⟩
  | some v => rw [bufRead_of_written hv] at h; cases h

/- ## The access path -/

/-- A command faults only as ENCODE or SEND, over a payload with an unwritten byte (R126, R213). -/
theorem cmdWrite_fault {w : Word} (h : cmdWrite w s = .fault f) :
    (w = 1 ∨ w = 3) ∧ txPayload s = none ∧ MarkedFault f := by
  unfold cmdWrite at h
  split_ifs at h with hop hrsvd h1 h2
  · cases h
  · cases h
  · have hw := eq_opField_of_cmdRsvd (not_not.1 hrsvd)
    rw [h1] at hw
    exact ⟨.inl hw, startEncode_fault h⟩
  · cases h
  · have hw := eq_opField_of_cmdRsvd (not_not.1 hrsvd)
    have h3 : opField w = 3 := by_contra fun hne => hop ⟨h1, h2, hne⟩
    rw [h3] at hw
    exact ⟨.inr hw, startSend_fault h⟩

/-- A register write that faults is a command (R212, R215). -/
theorem regWrite_fault {r : Reg} {d : Word} (h : regWrite r d s = .fault f) :
    r = .cmd ∧ cmdWrite d s = .fault f := by
  unfold regWrite at h
  split_ifs at h
  · cases h
  · cases h
  · split at h
    · exact ⟨rfl, h⟩
    · cases h
    · cases h
    · unfold txIdWrite refuse at h
      split_ifs at h
    · unfold txLenWrite refuse at h
      split_ifs at h
    · cases h

theorem bufWrite_ne_fault {b : Buf} {a : Nat} {v : Byte} : bufWrite b a v s ≠ .fault f := by
  intro h
  unfold bufWrite refuse at h
  split_ifs at h

/-- An access that faults is a read of a buffer byte or a write to CMD (R210). -/
theorem hostAccess_fault {w sz : Bool} {a : Nat} {d : Word} (h : hostAccess w sz a d s = .fault f) :
    (w = false ∧ sz = false ∧ bufRead a s = .fault f) ∨
    (w = true ∧ sz = true ∧ regAt a = some .cmd ∧ cmdWrite d s = .fault f) := by
  unfold hostAccess at h
  split at h
  · cases h
  · split at h
    · cases h
    · next hsz =>
      split at h
      · cases h
      · next r hr =>
        split_ifs at h with hw
        · obtain ⟨rfl, hcmd⟩ := regWrite_fault h
          exact .inr ⟨hw, eq_true_of_ne_false hsz, hr, hcmd⟩
        · cases h
  · split_ifs at h with hsz hw
    · cases h
    · exact absurd h bufWrite_ne_fault
    · exact .inl ⟨eq_false_of_ne_true hw, eq_false_of_ne_true hsz, h⟩

/- ## The cause of the fault -/

theorem exec_wr_fault {a : BitVec 20} {d : Word} (h : exec (.wr a d) s = .fault f) :
    a = 0 ∧ (d = 1 ∨ d = 3) ∧ txPayload s = none ∧ MarkedFault f := by
  obtain ⟨hw, -⟩ | ⟨-, -, hreg, hcmd⟩ := hostAccess_fault h
  · cases hw
  · exact ⟨BitVec.eq_of_toNat_eq (regAt_eq_some hreg), cmdWrite_fault hcmd⟩

/-- A command word faults as a WR of it to CMD does (R90, R213). -/
theorem exec_decodeCmd_fault {w : Word} (h : exec (decodeCmd w) s = .fault f) :
    (w = 1 ∨ w = 3) ∧ txPayload s = none ∧ MarkedFault f := by
  rw [← writeToCmdIsTheCommand w s] at h
  exact (exec_wr_fault h).2

theorem faultCause_of_payload {i : Instr} (hi : commandWord i = some 1 ∨ commandWord i = some 3)
    (hp : txPayload s = none) : faultCause i s :=
  .inr ⟨hi, txPayload_eq_none.1 hp⟩

end

/-- Settles O19, by the cases of the instruction: ENCODE, SEND and WR fault for their payload, RDB for its byte, and the others not at all. -/
theorem faultIsAnUnwrittenByte : Obligations.FaultIsAnUnwrittenByte := by
  intro i s f h
  cases i with
  | encode =>
    obtain ⟨-, hp, hf⟩ := exec_decodeCmd_fault (w := 1) h
    exact ⟨faultCause_of_payload (.inl rfl) hp, hf⟩
  | send =>
    obtain ⟨-, hp, hf⟩ := exec_decodeCmd_fault (w := 3) h
    exact ⟨faultCause_of_payload (.inr rfl) hp, hf⟩
  | recv =>
    obtain ⟨hw, -⟩ := exec_decodeCmd_fault (w := 2) h
    exact absurd hw (by decide)
  | cmdReserved w =>
    simp only [exec, execCmdReserved, refuse] at h
    split_ifs at h
  | wr a d =>
    obtain ⟨rfl, hd, hp, hf⟩ := exec_wr_fault h
    exact ⟨faultCause_of_payload (hd.imp (congrArg some) (congrArg some)) hp, hf⟩
  | rdb a =>
    obtain ⟨-, -, hread⟩ | ⟨hw, -⟩ := hostAccess_fault h
    · obtain ⟨hbyte, hf⟩ := bufRead_fault hread
      exact ⟨.inl ⟨a, rfl, hbyte⟩, hf⟩
    · cases hw
  | rd a => obtain ⟨-, hsz, -⟩ | ⟨hw, -⟩ := hostAccess_fault h <;> contradiction
  | wrb a v => obtain ⟨hw, -⟩ | ⟨-, hsz, -⟩ := hostAccess_fault h <;> contradiction
  | nackMatch | ackMatch | unrelated id m => cases h

end Sys2Proof.Machine

/-! PROOFS. What a running operation refuses (R212 to R214, R270), and the values that the RESET input and the start of a run give (R260 to R262). -/

namespace Sys2Proof.Machine

/- ## Refusals of a running operation -/

theorem exec_recv_of_busy {s : State} (hb : s.busy = true) : exec .recv s = refuse .busy s := by
  rw [exec, execRecv, if_pos hb]

theorem exec_send_of_busy {s : State} (hb : s.busy = true) : exec .send s = refuse .busy s := by
  rw [exec, execSend, if_pos hb]

/-- BUSY is checked before the reserved OP and the reserved bits (R213). -/
theorem exec_cmdReserved_of_busy {s : State} (hb : s.busy = true) (w : Word) :
    exec (.cmdReserved w) s = refuse .busy s := by
  rw [exec, execCmdReserved, if_pos hb]

/-- BUSY is checked before the reserved bits of the data (R212, R215). -/
theorem regWrite_of_busy {r : Reg} {s : State} (hr : writable r = true) (hb : s.busy = true)
    (d : Word) : regWrite r d s = refuse .busy s :=
  (if_neg (ne_false_of_eq_true hr)).trans (if_pos hb)

theorem exec_wr_of_busy {r : Reg} {s : State} (hr : writable r = true) (hb : s.busy = true)
    (d : Word) : exec (.wr (regOffset r) d) s = refuse .busy s :=
  (exec_wr_reg r d s).trans (regWrite_of_busy hr hb d)

theorem exec_wrb_txbuf_of_busy {a : BitVec 20} {s : State} (hlo : 0x10000 ≤ a.toNat)
    (hhi : a.toNat ≤ 0x1FFFD) (hb : s.busy = true) (v : Byte) :
    exec (.wrb a v) s = refuse .busy s := by
  rw [exec_wrb_buf (region_txbuf hlo hhi), bufWrite, if_neg (not_not_intro rfl), if_pos hb]

/-- Settles O15: each command, each of the five writable registers and each address of TXBUF meets its check of BUSY first. -/
theorem writesAreRefusedWhileBusy : Obligations.WritesAreRefusedWhileBusy := by
  intro s hb
  refine ⟨exec_encode_of_busy hb, exec_recv_of_busy hb, exec_send_of_busy hb,
    exec_cmdReserved_of_busy hb, fun d => ?_, fun a v hlo hhi => exec_wrb_txbuf_of_busy hlo hhi hb v⟩
  exact ⟨exec_wr_of_busy (r := .cmd) rfl hb d, exec_wr_of_busy (r := .syncMax) rfl hb d,
    exec_wr_of_busy (r := .ackMax) rfl hb d, exec_wr_of_busy (r := .txId) rfl hb d,
    exec_wr_of_busy (r := .txLen) rfl hb d⟩

/- ## The reset input -/

/-- The start of a run is a state that RESET leaves as it is, so what holds after every RESET holds there (R262). -/
theorem resetInput_reset : resetInput .reset = .reset := rfl

/-- Every register shows 0 after RESET: the fields that make its image are those of the reset state (R262). -/
theorem regImage_resetInput (r : Reg) (s : State) : regImage r (resetInput s) = 0 :=
  calc regImage r (resetInput s)
    _ = regImage r .reset := by cases r <;> rfl
    _ = 0 := by cases r <;> decide

theorem memRead_resetInput (s : State) (a : Nat) : memRead (resetInput s).mem a = none := memRead_nil a

theorem exec_rdb_resetInput {a : BitVec 20} {b : Buf} (h : region a.toNat = .buf b) (s : State) :
    exec (.rdb a) (resetInput s) = raiseUninit (resetInput s) :=
  (exec_rdb_buf h _).trans (bufRead_of_unwritten (memRead_resetInput s _))

/-- Settles O33: both states are what RESET makes of some state. -/
theorem resetValues : Obligations.ResetValues := by
  intro s t ht
  obtain ⟨u, rfl⟩ : ∃ u, t = resetInput u := ht.elim (⟨s, ·⟩) (⟨.reset, ·.trans resetInput_reset.symm⟩)
  exact ⟨fun r => regImage_resetInput r u, rfl, rfl, rfl, rfl, rfl, rfl, rfl,
    fun _ _ h => exec_rdb_resetInput h u, fun h => h ▸ ⟨rfl, rfl⟩, rfl, rfl⟩

/-- Settles O34: the step is the reset input on the state whose turn has been used up. -/
theorem resetClearsEverything : Obligations.ResetClearsEverything :=
  fun _ _ h => ⟨_, step_reset h, fun r => regImage_resetInput r _, memRead_resetInput _,
    rfl, rfl, rfl, rfl, rfl, rfl, rfl, rfl, rfl, rfl⟩

end Sys2Proof.Machine
